-- ==== Sys2Proof/Word.lean ====
section
/-! DEFINITION. The word types of the block: the stored byte (10_state.md R11, DATA_W = 8) and the 11-bit request
vector `req[10:0]` on the ports (30_encoding.md R53). -/

namespace Sys2Proof

/-- One stored element: 8 bits (R11, R16). -/
abbrev Byte := BitVec 8

/-- A request vector `{rst, rd_en, wr_en, wr_data[7:0]}`, bit 0 the least significant (R53). -/
abbrev Req := BitVec 11

end Sys2Proof
end

