-- ==== Sys2Proof/Config.lean ====
section
/-! DEFINITION. What the spec leaves to the implementation, as uninterpreted constants (no body, so no proof can lean
on a value), and the parameters 00_scope.md R5 fixes. -/

namespace Sys2Proof

/-- The two serial orders of a push and a pop presented together (20_memory.md R41, 40_fifo_ops.md R76):
`pushFirst` is the spec's order A, `popFirst` its order B. -/
inductive SimulOrder where
  | pushFirst
  | popFirst
  deriving DecidableEq, Repr, Inhabited

namespace Config

/-- `W` of the machine that leaves reset: the spec gives no capacity and forbids assuming one (R5, N2).
DESIGN CHOICE, log entry 1, safe: uninterpreted. -/
opaque capLog2 : Nat

/-- What a slot holds before any push has written it (10_state.md R19, U2): any byte. Log entry 3, safe. -/
opaque powerUpByte (slot : Nat) : Byte

/-- `rd_data` in a step with `rd_en = 0` (30_encoding.md R52, U3): any byte. Log entry 4, safe. -/
opaque idleRdData (tick : Nat) : Byte

/-- The serial order of a simultaneous push and pop where the environment's list gives none (R41, U4).
Log entry 5, safe. -/
opaque simulOrder (tick : Nat) : SimulOrder

/-- The divisor at bit rate 0, where `clock / (16 * baud)` has no value (42_transmit_platform.md R110).
DESIGN CHOICE, log entry 18, safe: uninterpreted. -/
opaque divisorAtZeroBaud (clock : Nat) : Int

/-- `EMPTY_DATA`: the data of an empty pop, -1 as a signed 8-bit value (R5, R57). -/
def emptyData : Byte := 0xFF

/-- `TERMINATOR`: the zero byte (R5, R58). -/
def terminator : Byte := 0x00

end Config

end Sys2Proof
end

