-- ==== Sys2Proof/Syntax.lean ====
section
/-! DEFINITION. The operations, one constructor per row of spec/opcode_table.json, with the agents that present
them (00_scope.md R6) and the expansion of the PSEUDO rows (30_encoding.md R51). -/

namespace Sys2Proof

/-- The operations. The first five are the REQ rows, which a request vector selects (R54); `available` is the STATUS
row; the last four are the PSEUDO rows, the source-level operations of 41_uart_recv.md. -/
inductive Instr where
  | reset
  | idle
  | push (d : Byte)
  | pop
  | pushPop (d : Byte)
  | available
  | rxEvent (b : Byte)
  | receiveAvailable
  | receiveByte
  /-- `dstSize` is DST_SIZE, the size of the caller's buffer, an argument of each call (R5, R96). -/
  | receiveString (dstSize : Nat)
  deriving DecidableEq, Repr

namespace Instr

/-- The formats of the opcode table. -/
inductive Format where
  | req
  | status
  | pseudo
  deriving DecidableEq, Repr

/-- The row's format in spec/opcode_table.json. -/
def format : Instr → Format
  | reset => .req
  | idle => .req
  | push _ => .req
  | pop => .req
  | pushPop _ => .req
  | available => .status
  | rxEvent _ => .pseudo
  | receiveAvailable => .pseudo
  | receiveByte => .pseudo
  | receiveString _ => .pseudo

/-- The single operation a PSEUDO row expands to (R51, R90, R94, R95). `receiveString` expands to no single operation
(R96) and stands for itself. -/
def expand : Instr → Instr
  | reset => .reset
  | idle => .idle
  | push d => .push d
  | pop => .pop
  | pushPop d => .pushPop d
  | available => .available
  | rxEvent b => .push b
  | receiveAvailable => .available
  | receiveByte => .pop
  | receiveString n => .receiveString n

/-- The producer takes part: it pushes (R6, R129). -/
def byProducer : Instr → Bool
  | reset => false
  | idle => false
  | push _ => true
  | pop => false
  | pushPop _ => true
  | available => false
  | rxEvent _ => true
  | receiveAvailable => false
  | receiveByte => false
  | receiveString _ => false

/-- The consumer takes part: pop, available and what is composed of them (R6, R129). -/
def byConsumer : Instr → Bool
  | reset => false
  | idle => false
  | push _ => false
  | pop => true
  | pushPop _ => true
  | available => true
  | rxEvent _ => false
  | receiveAvailable => true
  | receiveByte => true
  | receiveString _ => true

/-- The host performs the reset and nothing else (R6). -/
def byHost : Instr → Bool
  | reset => true
  | idle => false
  | push _ => false
  | pop => false
  | pushPop _ => false
  | available => false
  | rxEvent _ => false
  | receiveAvailable => false
  | receiveByte => false
  | receiveString _ => false

end Instr

end Sys2Proof
end

