-- ==== Sys2Proof/Machine/State.lean ====
section
/-! DEFINITION. The state of the machine as plain data (10_state.md R10 to R19, 30_encoding.md R52, 41_uart_recv.md R96),
its reset value, and the reasons a step can stop. -/

namespace Sys2Proof.Machine

/-- A byte memory: (address, byte) cells. An unlisted address holds no value. -/
abbrev Memory := List Host.Cell

/-- The canonical form: addresses strictly rising. No cell can equal what an unlisted address reads as, which is
"no value". -/
abbrev Memory.wf (m : Memory) : Prop := m.Pairwise fun x y => x.1 < y.1

/-- The result of a pop: the pair (`rd_valid`, `rd_data`) (R57). -/
structure PopResult where
  valid : Bool
  data : Byte
  deriving DecidableEq, Repr

/-- A value handed back to the consumer ("return v", R8). -/
inductive Ret where
  /-- Nothing has been returned yet. -/
  | nothing
  /-- The result of a pop (R74). -/
  | popped (r : PopResult)
  /-- The value of `count` (R78). -/
  | occupancy (n : Nat)
  /-- The length receiveString returns, an unbounded number (R96, R98). -/
  | length (n : Nat)
  deriving DecidableEq, Repr

/-- The place in receiveString's loop (R96): what the foreground does next. -/
inductive Phase where
  /-- `AVAILABLE() != 0`? -/
  | test
  /-- `(valid, v) = POP()`. -/
  | pop
  /-- `DstWrite(n, v)`; `n = n + 1`. -/
  | write (v : Byte)
  /-- `DstWrite(n, 0x00)`; `return n`. -/
  | terminate
  deriving DecidableEq, Repr

/-- A receiveString call in progress: DST_SIZE, `n`, and the place in the loop. DEDUCED, log entry 7, safe. -/
structure StringCall where
  size : Nat
  n : Nat
  phase : Phase
  deriving DecidableEq, Repr

/-- What the outside presents to the machine as one step. DESIGN CHOICE, log entry 6. -/
inductive Presented where
  /-- A request vector on the ports (R52, R53). -/
  | request (r : Req)
  /-- An operation presented by name: the STATUS row and the PSEUDO rows have no request of their own. -/
  | op (i : Instr)
  /-- The foreground's turn: it takes the next atomic step of its receiveString call, and asks for nothing when it is
  in none. -/
  | turn
  deriving DecidableEq, Repr

/-- The whole state. -/
structure State where
  /-- `W`; the capacity is `2 ^ W` (R5, R11). -/
  log2Cap : Nat
  /-- `storage`: slot and byte (R11, R30). -/
  storage : Memory
  /-- The next write slot (R12). -/
  head : Nat
  /-- The next read slot (R13). -/
  tail : Nat
  /-- The number of unread bytes (R14). -/
  count : Nat
  /-- The ports `rd_valid` and `rd_data` as the last step left them (R52). -/
  rsp : PopResult
  /-- The value last handed back to the consumer (R8). -/
  ret : Ret
  /-- The caller's destination buffer: the bytes the last receiveString call wrote, by offset (R28, R45). -/
  dst : Memory
  /-- The receiveString call in progress, if the foreground is in one (R96). -/
  call : Option StringCall
  /-- The model's own: what is presented next, in order (log entry 6). -/
  pending : List Presented
  /-- The model's own: the environment's choices of order for simultaneous requests (R41, log entry 5). -/
  orders : List SimulOrder
  /-- The model's own: the index of the next free value (log entry 19). -/
  tick : Nat
  deriving DecidableEq, Repr

/-- Why the machine stops with a fault. -/
inductive Fault where
  /-- Raised by receiveString alone: its write at offset `offset` of a destination of `size` bytes, `offset >= size`
  (R97). Safe: the model stops where the hardware damages memory the spec says nothing of. -/
  | dstOverrun (offset size : Nat)
  deriving DecidableEq, Repr

/-- Why the machine refuses. -/
inductive Refusal where
  /-- Raised by an arm of `exec` whose instruction has no meaning yet; none is left. Safe: nothing runs. -/
  | notModelled (mnemonic : String)
  deriving DecidableEq, Repr

/-- The answer of a meaning. -/
abbrev Result := Host.Outcome State Fault Refusal

/-- The capacity `C = 2 ^ W` (R5). -/
def State.cap (s : State) : Nat := 2 ^ s.log2Cap

/-- The state after reset of a block of capacity `2 ^ w`: `head = tail = count = 0` (R18), no slot written (R19),
nothing requested, returned, written or presented (log entries 6, 7, 10, 11, 19). -/
def State.resetWith (w : Nat) : State where
  log2Cap := w
  storage := []
  head := 0
  tail := 0
  count := 0
  rsp := ⟨false, Config.idleRdData 0⟩
  ret := .nothing
  dst := []
  call := none
  pending := []
  orders := []
  tick := 0

/-- The state after reset, of the capacity the implementation has (log entry 1). -/
def State.reset : State := State.resetWith Config.capLog2

end Sys2Proof.Machine
end

