-- ==== Sys2Proof/Machine/Flags.lean ====
section
/-! DEFINITION. The output ports derived from the state, which hold no state of their own: the flags `empty` and `full`
(10_state.md R24), `count` as the port gives it (30_encoding.md R52, R56), and the optional gray views (R25, R59). -/

namespace Sys2Proof.Machine

/-- `empty = (count == 0)` (R15, R24). -/
def State.empty (s : State) : Bool := s.count == 0

/-- `full = (count == C)` (R15, R24). -/
def State.full (s : State) : Bool := s.count == s.cap

/-- The port `count`: `W + 1` bits, unsigned, bit 0 least significant (R16, R33, R52). -/
def State.countPort (s : State) : BitVec (s.log2Cap + 1) := BitVec.ofNat _ s.count

/-- `zext_N(count)`, the value a wider integer receives (R56). -/
def State.countZext (n : Nat) (s : State) : BitVec n := s.countPort.setWidth n

/-- `gray(v) = v xor (v >> 1)` (R25; PRESUMED, log entry 22; no rule reads it). -/
def gray {w : Nat} (v : BitVec w) : BitVec w := v ^^^ (v >>> 1)

/-- `head_gray`, `W` bits (R25). -/
def State.headGray (s : State) : BitVec s.log2Cap := gray (BitVec.ofNat _ s.head)

/-- `tail_gray`, `W` bits (R25). -/
def State.tailGray (s : State) : BitVec s.log2Cap := gray (BitVec.ofNat _ s.tail)

end Sys2Proof.Machine
end

