-- ==== Sys2Proof/Machine/Operands.lean ====
section
/-! DEFINITION. The forms of operands and results (30_encoding.md R55 to R57): the pop result's two representations. The
push operand is the byte itself, with no extension and no scaling (R55). -/

namespace Sys2Proof.Machine

/-- `EMPTY = (0, 0xFF)` (R57, R75). -/
def PopResult.empty : PopResult := ⟨false, Config.emptyData⟩

/-- A returned byte, `(1, byte)` (R57). -/
def PopResult.byte (v : Byte) : PopResult := ⟨true, v⟩

/-- The source's single-value form: the data alone, in which EMPTY and a received `0xFF` look the same (R57, R145). -/
def PopResult.single (r : PopResult) : Byte := r.data

/-- `sext_N` of the single-value form, read as a signed number (R57). -/
def PopResult.sext (n : Nat) (r : PopResult) : BitVec n := r.single.signExtend n

end Sys2Proof.Machine
end

