-- ==== Sys2Proof/Machine/Ops.lean ====
section
/-! DEFINITION. The shared operations: the byte memories, the index arithmetic, the buffer's push, pop and reset, the
response on the ports, and the serial order of a simultaneous push and pop (20_memory.md R31, 40_fifo_ops.md R70 to R79).
The block raises no exception and has no trap entry or return (60_exceptions.md R120, R127), so none stands here. -/

namespace Sys2Proof.Machine

/-- The byte at an address; `none` where nothing has been written. -/
def Memory.read : Memory → Nat → Option Byte
  | [], _ => Option.none
  | (b, x) :: rest, a => if a = b then some x else Memory.read rest a

/-- Write one byte, keeping the addresses rising. -/
def Memory.write : Memory → Nat → Byte → Memory
  | [], a, v => [(a, v)]
  | (b, x) :: rest, a, v =>
    if a < b then (a, v) :: (b, x) :: rest
    else if a = b then (a, v) :: rest
    else (b, x) :: Memory.write rest a v

/-- The index after `i`: `(i + 1) mod C` (R34, R59, R79 a). -/
def State.succIndex (s : State) (i : Nat) : Nat := (i + 1) % s.cap

/-- `MemRead(i, 1)` (R31): the slot's byte; a slot never written holds any byte (R19, log entry 3). -/
def State.memRead (s : State) (i : Nat) : Byte := (Memory.read s.storage i).getD (Config.powerUpByte i)

/-- The buffer's push (R72, and R73 when `count = C`): `storage[head] <- d`, `head` advances, `count` rises to at most
`C`, `tail` is not written. -/
def State.pushBlock (d : Byte) (s : State) : State :=
  { s with
    storage := Memory.write s.storage s.head d
    head := s.succIndex s.head
    count := if s.count < s.cap then s.count + 1 else s.cap }

/-- What a pop returns (R74, R75). -/
def State.popResult (s : State) : PopResult :=
  if s.count = 0 then PopResult.empty else PopResult.byte (s.memRead s.tail)

/-- What a pop does to the buffer (R74): `tail` advances and `count` falls; nothing when `count = 0` (R75). -/
def State.popBlock (s : State) : State :=
  { s with
    tail := if s.count = 0 then s.tail else s.succIndex s.tail
    count := s.count - 1 }

/-- What the reset does to the buffer (R70): `storage` is not written. -/
def State.resetBlock (s : State) : State :=
  { s with head := 0, tail := 0, count := 0 }

/-- End a step with `r` on the ports `rd_valid` and `rd_data` (R52). -/
def State.respond (r : PopResult) (s : State) : State :=
  { s with rsp := r, tick := s.tick + 1 }

/-- End a step in which no pop was requested: `rd_valid = 0`, `rd_data` any value (R52, log entry 4). -/
def State.quiet (s : State) : State :=
  s.respond ⟨false, Config.idleRdData (s.tick + 1)⟩

/-- Hand a value back to the consumer. -/
def State.handBack (v : Ret) (s : State) : State :=
  { s with ret := v }

/-- A whole POP step: the buffer's pop, its result on the ports (R74). -/
def State.popStep (s : State) : State := s.popBlock.respond s.popResult

/-- The serial order of a push and a pop presented together in this state: the environment's next choice, and where it
has given none any order (R41, log entry 5). -/
def State.order (s : State) : SimulOrder :=
  match s.orders with
  | o :: _ => o
  | [] => Config.simulOrder s.tick

/-- The environment's choice is used up. -/
def State.dropOrder (s : State) : State := { s with orders := s.orders.tail }

/-- The pop result of a simultaneous push and pop, for each order (R76). -/
def State.pushPopResult (o : SimulOrder) (d : Byte) (s : State) : PopResult :=
  match o with
  | .pushFirst => (s.pushBlock d).popResult
  | .popFirst => s.popResult

/-- The buffer after a simultaneous push and pop, for each order (R76). -/
def State.pushPopBlock (o : SimulOrder) (d : Byte) (s : State) : State :=
  match o with
  | .pushFirst => (s.pushBlock d).popBlock
  | .popFirst => s.popBlock.pushBlock d

/-- The foreground's program moves on (R96). -/
def State.setCall (c : Option StringCall) (s : State) : State := { s with call := c }

/-- `DstWrite(k, v)` inside the destination (R8, R45). -/
def State.dstWrite (k : Nat) (v : Byte) (s : State) : State :=
  { s with dst := Memory.write s.dst k v }

end Sys2Proof.Machine
end

