-- ==== Sys2Proof/Machine/Block.lean ====
section
/-! DEFINITION. The meanings of the block's own operations (40_fifo_ops.md R70 to R78): RESET, IDLE, PUSH, POP, PUSH_POP,
AVAILABLE. None of them faults or refuses in any state (60_exceptions.md R120). -/

namespace Sys2Proof.Machine

/-- RESET (R70): nothing else is performed with it. A reset later than start-up is the spec's extension (D9, log
entry 9). -/
def execReset (s : State) : Result := .next s.resetBlock.quiet

/-- IDLE (R71). -/
def execIdle (s : State) : Result := .next s.quiet

/-- PUSH d (R72, R73). -/
def execPush (d : Byte) (s : State) : Result := .next (s.pushBlock d).quiet

/-- POP (R74, R75). -/
def execPop (s : State) : Result := .next (s.popStep.handBack (.popped s.popResult))

/-- PUSH_POP d (R76): both operations, in the order the environment or the hardware takes. -/
def execPushPop (d : Byte) (s : State) : Result :=
  let r := s.pushPopResult s.order d
  .next (((s.pushPopBlock s.order d).dropOrder.respond r).handBack (.popped r))

/-- AVAILABLE (R78): the value of `count`, nothing written. It is a step of its own, with no pop requested (log
entry 15). -/
def execAvailable (s : State) : Result := .next (s.quiet.handBack (.occupancy s.count))

end Sys2Proof.Machine
end

