-- ==== Sys2Proof/Machine/Receive.lean ====
section
/-! DEFINITION. The meanings of the receive side's operations (41_uart_recv.md R90 to R98): RX_EVENT, receiveAvailable,
receiveByte, receiveString. -/

namespace Sys2Proof.Machine

/-- RX event carrying `b` (R90): the signal, the read and the push are one atomic producer step, a PUSH. -/
def execRxEvent (b : Byte) (s : State) : Result := .next (s.pushBlock b).quiet

/-- receiveAvailable (R94): delegates to AVAILABLE. -/
def execReceiveAvailable (s : State) : Result := .next (s.quiet.handBack (.occupancy s.count))

/-- receiveByte (R95): delegates to POP. -/
def execReceiveByte (s : State) : Result := .next (s.popStep.handBack (.popped s.popResult))

/-- `if AVAILABLE() != 0` of the loop (R96). -/
def stringTest (c : StringCall) (s : State) : Result :=
  .next (s.quiet.setCall (some { c with phase := if s.count = 0 then .terminate else .pop }))

/-- `(valid, v) = POP()` of the loop (R96): the byte is `rd_data` whatever `rd_valid` says, as the program text has it;
`rd_valid = 1` unless a reset came between (log entry 9). -/
def stringPop (c : StringCall) (s : State) : Result :=
  .next (s.popStep.setCall (some { c with phase := .write s.popResult.data }))

/-- `DstWrite(n, v)`, `n = n + 1` of the loop (R96); outside the destination, the overrun (R97). -/
def stringWrite (c : StringCall) (v : Byte) (s : State) : Result :=
  if c.n < c.size then
    .next ((s.dstWrite c.n v).quiet.setCall (some { c with n := c.n + 1, phase := .test }))
  else .fault (.dstOverrun c.n c.size)

/-- `DstWrite(n, 0x00)`, `return n` (R96); outside the destination, the overrun (R97). -/
def stringTerminate (c : StringCall) (s : State) : Result :=
  if c.n < c.size then
    .next (((s.dstWrite c.n Config.terminator).quiet.setCall Option.none).handBack (.length c.n))
  else .fault (.dstOverrun c.n c.size)

/-- The next atomic step of a call (R96). -/
def stringStep (c : StringCall) (s : State) : Result :=
  match c.phase with
  | .test => stringTest c s
  | .pop => stringPop c s
  | .write v => stringWrite c v s
  | .terminate => stringTerminate c s

/-- A new call: `n = 0`, at the loop's first test, nothing yet written to the caller's buffer (R96, log entry 10). -/
def State.beginString (dstSize : Nat) (s : State) : State :=
  { s with dst := [], call := some ⟨dstSize, 0, .test⟩ }

/-- receiveString (R96 to R98): ONE atomic step of the call, since producer steps may occur between any two of them. With no
call in progress it begins one and makes the loop's first test; with a call in progress it takes that call's next step
(log entry 7). -/
def execReceiveString (dstSize : Nat) (s : State) : Result :=
  match s.call with
  | some c => stringStep c s
  | Option.none => stringStep ⟨dstSize, 0, .test⟩ (s.beginString dstSize)

end Sys2Proof.Machine
end

