-- ==== Sys2Proof/Machine/Dispatch.lean ====
section
/-! DEFINITION. One arm per operation. -/

namespace Sys2Proof.Machine

def exec (i : Instr) (s : State) : Host.Outcome State Fault Refusal :=
  match i with
  | .reset => Sys2Proof.Machine.execReset s
  | .idle => Sys2Proof.Machine.execIdle s
  | .push d => Sys2Proof.Machine.execPush d s
  | .pop => Sys2Proof.Machine.execPop s
  | .pushPop d => Sys2Proof.Machine.execPushPop d s
  | .available => Sys2Proof.Machine.execAvailable s
  | .rxEvent b => Sys2Proof.Machine.execRxEvent b s
  | .receiveAvailable => Sys2Proof.Machine.execReceiveAvailable s
  | .receiveByte => Sys2Proof.Machine.execReceiveByte s
  | .receiveString dstSize => Sys2Proof.Machine.execReceiveString dstSize s

end Sys2Proof.Machine
end

