-- ==== Sys2Proof/WellFormed.lean ====
section
/-! DEFINITION. The checks on syntax: which instructions a request vector can select (30_encoding.md R54), and which
numbers are capacities (10_state.md R11, 30_encoding.md R61). -/

namespace Sys2Proof

/-- Well-formed as a request: one of the five REQ rows. The STATUS and PSEUDO rows are selected by no request bit
(R54), so the check refuses them. -/
def Instr.wf : Instr → Bool
  | .reset => true
  | .idle => true
  | .push _ => true
  | .pop => true
  | .pushPop _ => true
  | .available => false
  | .rxEvent _ => false
  | .receiveAvailable => false
  | .receiveByte => false
  | .receiveString _ => false

/-- The source's test for a capacity, `C & (C - 1) == 0` (R11), with `C = 0` excluded because there would be no slot to
write (decision D3). The machine itself carries `W`, so it cannot hold a number this refuses (R61). -/
def capacityWf (c : Nat) : Bool :=
  c != 0 && (c &&& (c - 1)) == 0

end Sys2Proof
end

