-- ==== Sys2Proof/Decode.lean ====
section
/-! DEFINITION. The request vector's fields, the decoder and the encoder (30_encoding.md R53, R54), and the two-byte
container in which the opcode table's words are handed over (log entry 13). -/

namespace Sys2Proof

namespace Req

/-- `rst`, bit 10 (R53). -/
def rst (r : Req) : Bool := r.getLsbD 10

/-- `rd_en`, bit 9 (R53). -/
def rdEn (r : Req) : Bool := r.getLsbD 9

/-- `wr_en`, bit 8 (R53). -/
def wrEn (r : Req) : Bool := r.getLsbD 8

/-- `wr_data`, bits 7 to 0 (R53). -/
def wrData (r : Req) : Byte := r.extractLsb' 0 8

/-- `{rst, rd_en, wr_en, wr_data[7:0]}` (R53). -/
def mk (rst rdEn wrEn : Bool) (wrData : Byte) : Req :=
  (BitVec.ofBool rst ++ BitVec.ofBool rdEn ++ BitVec.ofBool wrEn ++ wrData : BitVec (1 + 1 + 1 + 8))

end Req

/-- The operation a request selects: by `req[10:8]` only; `rst` overrides the two enables; every vector selects one
operation (R54, R60). -/
def decode (r : Req) : Instr :=
  match Req.rst r, Req.rdEn r, Req.wrEn r with
  | true, _, _ => .reset
  | false, false, false => .idle
  | false, false, true => .push (Req.wrData r)
  | false, true, false => .pop
  | false, true, true => .pushPop (Req.wrData r)

/-- Why a byte string is no request vector. -/
inductive DecodeError where
  /-- Not two bytes. Raised by `requestOfBytes`. -/
  | wrongLength (n : Nat)
  /-- A bit above `req[10]` is set: there is no such wire (R53). Raised by `requestOfBytes`. -/
  | bitAboveRequest
  deriving DecidableEq, Repr

/-- The request in its two-byte container: the low byte first, the five bits above `req[10]` zero.
DESIGN CHOICE, log entry 13, safe: the spec gives the vector no byte form. -/
def requestOfBytes : List Byte → Except DecodeError Req
  | [lo, hi] =>
    if hi.toNat < 8 then .ok (hi.setWidth 3 ++ lo : BitVec (3 + 8)) else .error .bitAboveRequest
  | bytes => .error (.wrongLength bytes.length)

/-- The decoder on bytes, total, rejecting by name. -/
def decodeBytes (bytes : List Byte) : Except DecodeError Instr :=
  (requestOfBytes bytes).map decode

/-- A table word laid out as its container's bytes; a number over 16 bits gets a third byte, which is rejected. -/
def wordBytes (w : Nat) : List Byte :=
  BitVec.ofNat 8 w :: BitVec.ofNat 8 (w / 256) :: if w < 65536 then [] else [BitVec.ofNat 8 (w / 65536)]

/-- What the decoder reads from an opcode table word. Every row has one format and one length (R53), so `nbits` selects
nothing: the bits above it are zeros of `w`. -/
def decodeTableWord (_nbits w : Nat) : Option Instr :=
  (decodeBytes (wordBytes w)).toOption

/-- The canonical spelling, every ignored bit 0 (R54 and 30_encoding.md section 7). RX_EVENT and receiveByte have their
expansion's encoding (R90, R95); AVAILABLE, receiveAvailable and receiveString have none (R78, R94, R96). -/
def encode : Instr → Option Req
  | .reset => some 0x400
  | .idle => some 0x000
  | .push d => some (Req.mk false false true d)
  | .pop => some 0x200
  | .pushPop d => some (Req.mk false true true d)
  | .available => none
  | .rxEvent b => some (Req.mk false false true b)
  | .receiveAvailable => none
  | .receiveByte => some 0x200
  | .receiveString _ => none

/-- One REQ row of the operation map: mask, match and the operation as a function of `wr_data`. -/
structure RequestRow where
  mask : Req
  pattern : Req
  operation : Byte → Instr

/-- The request matches the row. -/
def RequestRow.fits (row : RequestRow) (r : Req) : Bool :=
  (r &&& row.mask) == row.pattern

/-- R54's operation map, the five REQ rows in the table's order. -/
def requestRows : List RequestRow :=
  [ ⟨0x400, 0x400, fun _ => .reset⟩,
    ⟨0x700, 0x000, fun _ => .idle⟩,
    ⟨0x700, 0x100, fun d => .push d⟩,
    ⟨0x700, 0x200, fun _ => .pop⟩,
    ⟨0x700, 0x300, fun d => .pushPop d⟩ ]

end Sys2Proof
end

