-- ==== Sys2Proof/Machine/Fetch.lean ====
section
/-! DEFINITION. What the next step performs: the next presentation, the arbitration of the one foreground thread, and how
a request vector is presented (20_memory.md R40, 30_encoding.md R53, log entries 6 and 8). -/

namespace Sys2Proof.Machine

/-- What the foreground does on its turn: the next step of its receiveString call, or nothing (IDLE, R71). -/
def State.foregroundInstr (s : State) : Instr :=
  match s.call with
  | some c => .receiveString c.size
  | none => .idle

/-- The operation a presentation names; a request vector is decoded (R54). -/
def Presented.instr (s : State) : Presented → Instr
  | .request r => decode r
  | .op i => i
  | .turn => s.foregroundInstr

/-- A consumer's operation presented while the foreground is inside receiveString comes after that call: there is one
foreground thread (R6, R132). DEDUCED, log entry 8. -/
def State.mustWait (s : State) : Presented → Bool
  | .request r => s.call.isSome && (decode r).byConsumer
  | .op i => s.call.isSome && i.byConsumer
  | .turn => false

/-- The operation the next step performs, and the state with its presentation taken. With nothing presented it is the
foreground's turn. -/
def State.fetch (s : State) : Instr × State :=
  match s.pending with
  | [] => (s.foregroundInstr, s)
  | p :: rest => if s.mustWait p then (s.foregroundInstr, s) else (p.instr s, { s with pending := rest })

/-- Present a request vector before everything else, so that the next step performs it: a request of the consumer needs
the foreground to be in no call. -/
def State.presentRequest (r : Req) (s : State) : State :=
  { s with
    pending := .request r :: s.pending
    call := if (decode r).byConsumer then none else s.call }

end Sys2Proof.Machine
end

