-- ==== Sys2Proof/Machine/Step.lean ====
section
/-! DEFINITION. One step of the machine: one atomic operation by one agent (20_memory.md R37, R40), and the presentation
of an opcode table word. -/

namespace Sys2Proof.Machine

/-- Perform what is presented next. -/
def step (s : State) : Host.Outcome State Fault Refusal :=
  exec s.fetch.1 s.fetch.2

/-- `s` with the table word's request presented next; a word that is no request vector has no port to stand on and leaves
`s` as it is (log entry 13). -/
def State.withFetchWord (s : State) (_nbits w : Nat) : State :=
  match requestOfBytes (wordBytes w) with
  | .ok r => s.presentRequest r
  | .error _ => s

end Sys2Proof.Machine
end

