-- ==== Sys2Proof/Machine/Transmit.lean ====
section
/-! DEFINITION. The transmit path and the divisor, which the spec records outside the block (00_scope.md R3,
42_transmit_platform.md R105 to R110): no operation of the table, no state of the block. The transmitter is an external
agent, so what `tx_empty` answers to each poll is an input (log entry 17). -/

namespace Sys2Proof.Machine

/-- How far a transmit call has come. -/
inductive TxStatus where
  /-- It returned; these polls of `tx_empty` are still to come. -/
  | returned (polls : List Bool)
  /-- It still waits for `tx_empty`: with these polls it has not returned (R105). -/
  | waiting
  /-- It ran past a text with no zero byte, of which the spec says nothing (R106, U13). -/
  | pastEnd
  deriving DecidableEq, Repr

/-- `sendByte` (R105): poll until `tx_empty` is 1, then write `tx_reg`. The bytes are those written to `tx_reg`. -/
def sendByte (b : Byte) : List Bool → List Byte × TxStatus
  | [] => ([], .waiting)
  | true :: polls => ([b], .returned polls)
  | false :: polls => sendByte b polls

/-- `sendString` (R106): each byte in order until the zero byte, which is not sent. -/
def sendString : List Byte → List Bool → List Byte × TxStatus
  | [], _ => ([], .pastEnd)
  | b :: text, polls =>
    if b = Config.terminator then ([], .returned polls)
    else
      match (sendByte b polls).2 with
      | .returned rest => ((sendByte b polls).1 ++ (sendString text rest).1, (sendString text rest).2)
      | .waiting => ((sendByte b polls).1, .waiting)
      | .pastEnd => ((sendByte b polls).1, .pastEnd)

/-- The program-memory variant (R107): each element decoded before it is sent, by the means the platform requires. -/
def sendProgramString {α : Type} (element : α → Byte) (text : List α) (polls : List Bool) : List Byte × TxStatus :=
  sendString (text.map element) polls

/-- `divisor = clock / (16 * baud) - 1`, the division truncating (R110, decision D16). -/
def baudDivisor (clock baud : Nat) : Int :=
  if baud = 0 then Config.divisorAtZeroBaud clock else ((clock / (16 * baud) : Nat) : Int) - 1

end Sys2Proof.Machine
end

