-- ==== Sys2Proof/Safety.lean ====
section
/-! DEFINITION. What claims are stated in terms of: the invariant of the machine's data, the ghost counters of the spec
(10_state.md R21, 40_fifo_ops.md R83: P, Q and L, which are no hardware and no field of State), reachability over every
interleaving (20_memory.md R40), and runs of operations. -/

namespace Sys2Proof.Machine

/-- The call in progress has written exactly the offsets below `n`, all inside the destination (R45, R96). -/
def State.CallOk (s : State) : Prop :=
  ∀ c, s.call = some c → c.n ≤ c.size ∧ ∀ k, (Memory.read s.dst k).isSome = true ↔ k < c.n

/-- The data of the machine is in order: the ranges of R22, both memories in canonical form, no slot outside `[0, C)`. -/
structure State.Inv (s : State) : Prop where
  head_lt : s.head < s.cap
  tail_lt : s.tail < s.cap
  count_le : s.count ≤ s.cap
  storage_wf : Memory.wf s.storage
  storage_lt : ∀ x ∈ s.storage, x.1 < s.cap
  dst_wf : Memory.wf s.dst
  call_ok : s.CallOk

/-- Between receiveString's test and its pop the buffer is not empty (R96, corner case a). -/
def State.PopReady (s : State) : Prop :=
  ∀ c, s.call = some c → c.phase = .pop → 0 < s.count

/-- The history since reset: the bytes pushed (the most recent first; P is their number), `popped` = Q, the pops that
returned real data, and `lost` = L, the pushes performed with `count = C` (R21, R83). -/
structure Ghost where
  pushes : List Byte
  popped : Nat
  lost : Nat
  deriving DecidableEq, Repr

/-- Right after reset. -/
def Ghost.zero : Ghost := ⟨[], 0, 0⟩

/-- A push performed in state `s`. -/
def Ghost.push (d : Byte) (s : State) (g : Ghost) : Ghost :=
  { g with pushes := d :: g.pushes, lost := if s.count < s.cap then g.lost else g.lost + 1 }

/-- A pop performed in state `s`. -/
def Ghost.pop (s : State) (g : Ghost) : Ghost :=
  { g with popped := if s.count = 0 then g.popped else g.popped + 1 }

/-- The history after the operation `i` performed in state `s`. -/
def Ghost.next (i : Instr) (s : State) (g : Ghost) : Ghost :=
  match i with
  | .reset => Ghost.zero
  | .idle => g
  | .push d => g.push d s
  | .pop => g.pop s
  | .pushPop d =>
    match s.order with
    | .pushFirst => (g.push d s).pop (s.pushBlock d)
    | .popFirst => (g.pop s).push d s.popBlock
  | .available => g
  | .rxEvent b => g.push b s
  | .receiveAvailable => g
  | .receiveByte => g.pop s
  | .receiveString _ =>
    match s.call with
    | some ⟨_, _, .pop⟩ => g.pop s
    | _ => g

/-- The states a run can reach, with their histories: from reset at any capacity, by steps, the outside world presenting
whatever it likes whenever it likes (R40, R141). -/
inductive Reachable : State → Ghost → Prop where
  | reset (w : Nat) : Reachable (State.resetWith w) Ghost.zero
  | present {s : State} {g : Ghost} (p : List Presented) (o : List SimulOrder) :
      Reachable s g → Reachable { s with pending := p, orders := o } g
  | step {s t : State} {g : Ghost} :
      Reachable s g → Machine.step s = .next t → Reachable t (g.next s.fetch.1 s.fetch.2)

/-- How the buffer and its history hang together (R19, R21, R80, R83): `head` counts the pushes and `tail` the successful
pops mod `C`, `P = count + L + Q`, an overflow needs `C` pushes before it, and the `k`-th last pushed byte (from 0) stands
in the slot of its push number while `k < C`. -/
structure Linked (s : State) (g : Ghost) : Prop where
  head_eq : s.head = g.pushes.length % s.cap
  tail_eq : s.tail = g.popped % s.cap
  account : g.pushes.length = s.count + g.lost + g.popped
  count_le : s.count ≤ s.cap
  lost_full : g.lost = 0 ∨ s.cap ≤ g.pushes.length
  content : ∀ k b, k < s.cap → g.pushes[k]? = some b →
    Memory.read s.storage ((g.pushes.length - 1 - k) % s.cap) = some b

/-- The buffer is as it was: capacity, indices, occupancy and every byte of `storage` (R10). -/
structure State.SameBuffer (s t : State) : Prop where
  log2Cap : t.log2Cap = s.log2Cap
  storage : ∀ a, Memory.read t.storage a = Memory.read s.storage a
  head : t.head = s.head
  tail : t.tail = s.tail
  count : t.count = s.count

/-- The consumer's side is as it was: the value last handed back, every byte of its destination buffer, its call. -/
structure State.SameConsumer (s t : State) : Prop where
  ret : t.ret = s.ret
  dst : ∀ k, Memory.read t.dst k = Memory.read s.dst k
  call : t.call = s.call

/-- What is presented next is as it was. -/
structure State.SameInputs (s t : State) : Prop where
  pending : t.pending = s.pending
  orders : t.orders = s.orders

/-- Operations performed one after another. -/
def runOps : List Instr → State → Result
  | [], s => .next s
  | i :: is, s =>
    match exec i s with
    | .next t => runOps is t
    | .fault r => .fault r
    | .refused r => .refused r

/-- `k` steps of the machine, stopping at the first fault or refusal. -/
def runSteps : Nat → State → Result
  | 0, s => .next s
  | k + 1, s =>
    match step s with
    | .next t => runSteps k t
    | .fault r => .fault r
    | .refused r => .refused r

/-- The results of `n` POPs in a row. -/
def popResults : Nat → State → List PopResult
  | 0, _ => []
  | n + 1, s =>
    match exec .pop s with
    | .next t => t.rsp :: popResults n t
    | .fault _ => []
    | .refused _ => []

/-- The producer's schedule that keeps receiveString from returning: an RX event before every test (R98). -/
def starve (b : Byte) : Nat → List Presented
  | 0 => []
  | k + 1 => .op (.rxEvent b) :: .turn :: .turn :: .turn :: starve b k

end Sys2Proof.Machine
end

