-- ==== Sys2Proof/Certificates/Slice0/Obligations.lean ====
section
/-! DEFINITION. The statements for the provers. Each docstring names the rule it formalises. No statement rests on the
value of a free constant of Config, of `tick`, or of a reset value that the log names as the model's choice, unless its
docstring says so. -/

open Sys2Proof Sys2Proof.Machine

/-! Decoding and presentation -/

/-- Words of 95_test_vectors.md V10 decode to the operations named there. -/
def Obligations.SpecWordsDecode : Prop :=
  decode 0x000 = .idle ∧ decode 0x0FF = .idle ∧ decode 0x141 = .push 0x41 ∧ decode 0x1FF = .push 0xFF ∧
  decode 0x2C3 = .pop ∧ decode 0x37E = .pushPop 0x7E ∧ decode 0x400 = .reset ∧ decode 0x5AA = .reset ∧
  decode 0x7FF = .reset

/-- R54: the five request patterns partition the 2048 request values, and the decoder gives the operation of the one row
that fits; `wr_data` never selects an operation; the canonical spellings; no request selects AVAILABLE or a PSEUDO row. -/
def Obligations.RequestRowsPartition : Prop :=
  (∀ r : Req, ∃ k : Fin requestRows.length,
    requestRows[k].fits r = true ∧ decode r = requestRows[k].operation (Req.wrData r) ∧
    ∀ j : Fin requestRows.length, requestRows[j].fits r = true → j = k) ∧
  (∀ (r : Req) (d : Byte) (j : Fin requestRows.length),
    requestRows[j].fits (Req.mk (Req.rst r) (Req.rdEn r) (Req.wrEn r) d) = requestRows[j].fits r) ∧
  encode .reset = some 0x400 ∧ encode .idle = some 0x000 ∧ encode .pop = some 0x200 ∧ encode .available = none ∧
  (∀ d : Byte, encode (.push d) = some (0x100 + d.setWidth 11) ∧
    encode (.pushPop d) = some (0x300 + d.setWidth 11)) ∧
  (∀ r : Req, (decode r).format = .req)

/-- Every request-format operation survives encoding and decoding with its operand; an encoded PSEUDO row decodes to its
expansion (R90, R95); the decoder answers only request-format operations (R54); the rows without an encoding are
AVAILABLE, receiveAvailable and receiveString (R78, R94, R96). -/
def Obligations.EncodeThenDecode : Prop :=
  (∀ i : Instr, i.wf = true → ∃ r, encode i = some r ∧ decode r = i) ∧
  (∀ (i : Instr) (r : Req), encode i = some r → decode r = i.expand) ∧
  (∀ r : Req, (decode r).wf = true) ∧
  (∀ i : Instr, encode i = none ↔ i = .available ∨ i = .receiveAvailable ∨ ∃ n, i = .receiveString n)

/-- The encoder gives the canonical spelling (30_encoding.md section 7): it decodes to the same operation, and each of its 1
bits stands in every request that selects that operation. -/
def Obligations.DecodeThenEncodeIsCanonical : Prop :=
  ∀ r : Req, ∃ c, encode (decode r) = some c ∧ decode c = decode r ∧
    ∀ r' : Req, decode r' = decode r → c &&& r' = c

/-- R60: no request is illegal in any state; `wr_data` is ignored when `wr_en = 0` or `rst = 1`, `rd_en` and `wr_en` when
`rst = 1`; a push on a full buffer and a pop on an empty one are operations, not errors. -/
def Obligations.NoRequestIsIllegal : Prop :=
  (∀ (s : State) (r : Req), ∃ t, step (s.presentRequest r) = .next t) ∧
  (∀ (r : Req) (d : Byte), Req.rst r = true ∨ Req.wrEn r = false →
    decode (Req.mk (Req.rst r) (Req.rdEn r) (Req.wrEn r) d) = decode r) ∧
  (∀ (r : Req) (a b : Bool), Req.rst r = true → decode (Req.mk true a b (Req.wrData r)) = decode r) ∧
  (∀ (d : Byte) (s : State), s.count = s.cap → ∃ t, exec (.push d) s = .next t) ∧
  (∀ s : State, s.count = 0 → ∃ t, exec .pop s = .next t)

/-- The opcode table's words reach the machine: a word of 11 bits is decoded, and presented it is what the next step
performs; a larger number is no request. The two-byte container is the model's choice (log entry 13). -/
def Obligations.TableWordsAreRequests : Prop :=
  (∀ nbits w : Nat, w < 2048 → decodeTableWord nbits w = some (decode (BitVec.ofNat 11 w))) ∧
  (∀ nbits w : Nat, 2048 ≤ w → decodeTableWord nbits w = none) ∧
  (∀ (s : State) (nbits w : Nat), w < 2048 → ∃ s' : State,
    step (s.withFetchWord nbits w) = exec (decode (BitVec.ofNat 11 w)) s' ∧ s.SameBuffer s' ∧ s.SameInputs s' ∧
    s'.ret = s.ret ∧ s'.rsp = s.rsp ∧ s'.dst = s.dst ∧
    (s.call = none ∨ (decode (BitVec.ofNat 11 w)).byConsumer = false → s' = s))

/-- A step performs what is presented next, its presentation taken; on the foreground's turn, and when nothing is presented,
the next step of the call in progress, or IDLE; a consumer's operation waits while a call is in progress (log entries 6
and 8). -/
def Obligations.StepPerformsWhatIsPresented : Prop :=
  ∀ (s : State) (rest : List Presented),
    (∀ r : Req, s.pending = .request r :: rest → s.call = none ∨ (decode r).byConsumer = false →
      step s = exec (decode r) { s with pending := rest }) ∧
    (∀ i : Instr, s.pending = .op i :: rest → s.call = none ∨ i.byConsumer = false →
      step s = exec i { s with pending := rest }) ∧
    (∀ c, s.pending = .turn :: rest → s.call = some c →
      step s = exec (.receiveString c.size) { s with pending := rest }) ∧
    (s.pending = .turn :: rest → s.call = none → step s = exec .idle { s with pending := rest }) ∧
    (∀ c, s.pending = [] → s.call = some c → step s = exec (.receiveString c.size) s) ∧
    (s.pending = [] → s.call = none → step s = exec .idle s) ∧
    (∀ (c : StringCall) (r : Req), s.pending = .request r :: rest → s.call = some c →
      (decode r).byConsumer = true → step s = exec (.receiveString c.size) s) ∧
    (∀ (c : StringCall) (i : Instr), s.pending = .op i :: rest → s.call = some c → i.byConsumer = true →
      step s = exec (.receiveString c.size) s)

/-! Reset -/

/-- R18: after reset `head = tail = count = 0` and the buffer is empty, whatever the capacity; and a buffer is never
destroyed: no step changes its capacity. -/
def Obligations.ResetStateIsEmpty : Prop :=
  (∀ w : Nat, (State.resetWith w).head = 0 ∧ (State.resetWith w).tail = 0 ∧ (State.resetWith w).count = 0 ∧
    (State.resetWith w).empty = true ∧ (State.resetWith w).full = false) ∧
  (∃ w, State.reset = State.resetWith w) ∧
  (∀ s t : State, step s = .next t → t.log2Cap = s.log2Cap)

/-- R70: RESET zeroes `head`, `tail` and `count` and writes nothing else of the buffer; every request with `rst = 1` selects
it, so a push or pop presented with it is not performed; the overflow count returns to 0. Its result is none.
The model's choice (log entry 9, DEDUCED, unsafe): the consumer's side, a receiveString call in progress and its destination
among it, is as it was; R70 does not say it. A RESET later than start-up is the spec's own extension (D9). -/
def Obligations.ResetClearsTheIndices : Prop :=
  (∀ s : State, ∃ t, exec .reset s = .next t ∧ t.head = 0 ∧ t.tail = 0 ∧ t.count = 0 ∧
    (∀ a, Memory.read t.storage a = Memory.read s.storage a) ∧ t.log2Cap = s.log2Cap ∧
    t.empty = true ∧ t.full = false ∧ t.rsp.valid = false ∧ s.SameConsumer t ∧ s.SameInputs t) ∧
  (∀ (a b : Bool) (d : Byte), decode (Req.mk true a b d) = .reset) ∧
  encode .reset = some 0x400 ∧
  (∀ (s : State) (g : Ghost), (g.next .reset s).lost = 0)

/-- R140: right after reset AVAILABLE returns 0, POP returns EMPTY, and PUSH d stores d in slot 0. -/
def Obligations.UsableRightAfterReset : Prop :=
  ∀ w : Nat,
    (∃ t, exec .available (State.resetWith w) = .next t ∧ t.ret = .occupancy 0) ∧
    (∃ t, exec .pop (State.resetWith w) = .next t ∧ t.ret = .popped ⟨false, 0xFF⟩) ∧
    (∀ d : Byte, ∃ t, exec (.push d) (State.resetWith w) = .next t ∧ Memory.read t.storage 0 = some d)

/-! The buffer's operations -/

/-- R71: IDLE changes nothing; `rd_valid = 0`; every request with `req[10:8] = 000` selects it. -/
def Obligations.IdleChangesNothing : Prop :=
  (∀ s : State, ∃ t, exec .idle s = .next t ∧ s.SameBuffer t ∧ s.SameConsumer t ∧ s.SameInputs t ∧
    t.empty = s.empty ∧ t.full = s.full ∧ t.rsp.valid = false) ∧
  (∀ d : Byte, decode (Req.mk false false false d) = .idle) ∧ encode .idle = some 0x000

/-- R72, and R90 for an RX event: the byte goes to `storage[head]`, `head` advances mod C, `count` rises but not past C,
`tail` is not written; the buffer is not empty after it; nothing is returned; its request is `0x100 + d`. That `tail` is not written on a full buffer either is R72's pseudocode; R73
bases it on decision D8. -/
def Obligations.PushStoresAtHead : Prop :=
  (∀ d : Byte, decode (Req.mk false false true d) = .push d ∧ encode (.push d) = some (0x100 + d.setWidth 11) ∧
    encode (.rxEvent d) = encode (.push d)) ∧
  ∀ (d : Byte) (i : Instr) (s : State), i = .push d ∨ i = .rxEvent d → ∃ t, exec i s = .next t ∧
    Memory.read t.storage s.head = some d ∧
    (∀ a, a ≠ s.head → Memory.read t.storage a = Memory.read s.storage a) ∧
    t.head = (s.head + 1) % s.cap ∧
    (s.count < s.cap → t.count = s.count + 1) ∧ (s.cap ≤ s.count → t.count = s.cap) ∧
    t.tail = s.tail ∧ t.log2Cap = s.log2Cap ∧ t.empty = false ∧ (t.full = true ↔ t.count = s.cap) ∧
    t.rsp.valid = false ∧ s.SameConsumer t ∧ s.SameInputs t

/-- R73: a push on a full buffer overwrites `storage[head]`, advances `head`, leaves `count` at C and `tail` where it was,
reports nothing, and adds one to the overflow count.
It rests on decision D8 (log entry 16, DEDUCED, unsafe): that an overflow push holds `tail` is the spec's own reading of the
source (90_conflicts.md C2). -/
def Obligations.PushOnFullOverwrites : Prop :=
  ∀ (d : Byte) (s : State) (g : Ghost), s.count = s.cap → ∃ t, exec (.push d) s = .next t ∧
    Memory.read t.storage s.head = some d ∧
    (∀ a, a ≠ s.head → Memory.read t.storage a = Memory.read s.storage a) ∧
    t.head = (s.head + 1) % s.cap ∧ t.count = s.count ∧ t.tail = s.tail ∧ t.full = true ∧
    t.rsp.valid = false ∧ t.log2Cap = s.log2Cap ∧ s.SameConsumer t ∧ s.SameInputs t ∧
    (g.next (.push d) s).lost = g.lost + 1

/-- R74, and R95 for receiveByte: with bytes buffered, a pop returns `storage[tail]`, `tail` advances mod C, `count` falls by
one; with none it returns EMPTY and changes nothing; `head` and `storage` are not written in either case. Its request is
`0x200`, `wr_data` ignored. -/
def Obligations.PopReturnsTailSlot : Prop :=
  ((∀ d : Byte, decode (Req.mk false true false d) = .pop) ∧ encode .pop = some 0x200 ∧
    encode .receiveByte = some 0x200) ∧
  ∀ (i : Instr) (s : State), i = .pop ∨ i = .receiveByte → ∃ t, exec i s = .next t ∧ t.ret = .popped t.rsp ∧
    (0 < s.count → t.rsp = ⟨true, s.memRead s.tail⟩ ∧ t.tail = (s.tail + 1) % s.cap ∧ t.count = s.count - 1 ∧
      (t.empty = true ↔ s.count = 1) ∧ (s.count ≤ s.cap → t.full = false)) ∧
    (∀ v, Memory.read s.storage s.tail = some v → s.memRead s.tail = v) ∧
    (s.count = 0 → t.rsp = ⟨false, 0xFF⟩ ∧ t.tail = s.tail ∧ t.count = s.count ∧ t.empty = s.empty ∧ t.full = s.full) ∧
    t.head = s.head ∧ (∀ a, Memory.read t.storage a = Memory.read s.storage a) ∧ t.log2Cap = s.log2Cap ∧
    t.call = s.call ∧ (∀ k, Memory.read t.dst k = Memory.read s.dst k) ∧ s.SameInputs t

/-- R75 and R85, and R95 for receiveByte: a pop on an empty buffer returns EMPTY = (0, 0xFF) and changes nothing of the
buffer, and so does every pop of a row of them. -/
def Obligations.PopOnEmptyReturnsSentinel : Prop :=
  (∀ (i : Instr) (s : State), i = .pop ∨ i = .receiveByte → s.count = 0 → ∃ t, exec i s = .next t ∧
    t.ret = .popped ⟨false, 0xFF⟩ ∧ t.rsp = ⟨false, 0xFF⟩ ∧ s.SameBuffer t ∧ t.call = s.call ∧
    (∀ k, Memory.read t.dst k = Memory.read s.dst k) ∧ s.SameInputs t) ∧
  (∀ (n : Nat) (s : State), s.count = 0 →
    popResults n s = List.replicate n ⟨false, 0xFF⟩ ∧
    ∃ t, runOps (List.replicate n .pop) s = .next t ∧ s.SameBuffer t)

/-- R76: PUSH_POP is a push and a pop in one of two serial orders: its buffer and its result are those of the two operations
performed one after the other in the order the state gives, and the environment can give either order (R41).
The model's choice (log entry 5, DESIGN CHOICE): the environment gives its choices in the list `orders`, of which each
PUSH_POP takes the first. -/
def Obligations.PushPopIsOneOfTheTwoOrders : Prop :=
  (∀ (d : Byte) (s : State), ∃ t, exec (.pushPop d) s = .next t ∧ t.ret = .popped t.rsp ∧ t.call = s.call ∧
    (∀ k, Memory.read t.dst k = Memory.read s.dst k) ∧ t.pending = s.pending ∧ t.orders = s.orders.tail ∧
    (s.order = .pushFirst → ∃ u v, exec (.push d) s = .next u ∧ exec .pop u = .next v ∧
      v.SameBuffer t ∧ t.rsp = v.rsp) ∧
    (s.order = .popFirst → ∃ u v, exec .pop s = .next u ∧ exec (.push d) u = .next v ∧
      v.SameBuffer t ∧ t.rsp = u.rsp)) ∧
  (∀ (s : State) (o : SimulOrder), ∃ p, { s with orders := p }.order = o)

/-- The table under R76: what each order returns and leaves, for `n = 0`, `0 < n < C` and `n = C`.
The row `n = C`, push first, rests on decision D8 (log entry 16, DEDUCED, unsafe): the overflow push holds `tail`. -/
def Obligations.PushPopTable : Prop :=
  ∀ (d : Byte) (s : State), s.count ≤ s.cap → ∃ t, exec (.pushPop d) s = .next t ∧
    Memory.read t.storage s.head = some d ∧
    (∀ a, a ≠ s.head → Memory.read t.storage a = Memory.read s.storage a) ∧
    t.head = (s.head + 1) % s.cap ∧ t.log2Cap = s.log2Cap ∧
    (s.order = .pushFirst → t.rsp = ⟨true, if s.head = s.tail then d else s.memRead s.tail⟩ ∧
      t.tail = (s.tail + 1) % s.cap ∧ t.count = if s.count = s.cap then s.cap - 1 else s.count) ∧
    (s.order = .popFirst →
      (s.count = 0 → t.rsp = ⟨false, 0xFF⟩ ∧ t.tail = s.tail ∧ t.count = 1) ∧
      (0 < s.count → t.rsp = ⟨true, s.memRead s.tail⟩ ∧ t.tail = (s.tail + 1) % s.cap ∧ t.count = s.count))

/-- R76, last part: with no overflow since reset, `head == tail` exactly when the buffer is empty or full, so between the two
both orders return the same byte and leave the same buffer. -/
def Obligations.PushPopOrdersAgreeInBetween : Prop :=
  ∀ (s : State) (g : Ghost) (d : Byte), Reachable s g → g.lost = 0 →
    (s.head = s.tail ↔ s.count = 0 ∨ s.count = s.cap) ∧
    (0 < s.count → s.count < s.cap →
      s.pushPopResult .pushFirst d = s.pushPopResult .popFirst d ∧
      (s.pushPopBlock .pushFirst d).SameBuffer (s.pushPopBlock .popFirst d))

/-- R150: the half-done pop that a minimal critical section lets through is no outcome here: from a full buffer with
`head == tail`, no serial order both returns the old byte and leaves `count` below C.
It rests on decision D8 (log entry 16, DEDUCED, unsafe): push first is an overflow push here, and it holds `tail`; were `tail`
advanced, the pop would return the next slot's byte, which may equal the old one. -/
def Obligations.NoHalfDonePopIsSeen : Prop :=
  ∀ (d : Byte) (s t : State), s.count = s.cap → s.head = s.tail → d ≠ s.memRead s.tail →
    exec (.pushPop d) s = .next t → t.rsp = ⟨true, s.memRead s.tail⟩ → t.count = t.cap

/-- R78, and R94 for receiveAvailable: the value of `count` is returned and nothing is written; asked twice, it is the same
value twice (R36). -/
def Obligations.AvailableReturnsCount : Prop :=
  ∀ (i : Instr) (s : State), i = .available ∨ i = .receiveAvailable → ∃ t, exec i s = .next t ∧
    t.ret = .occupancy s.count ∧ s.SameBuffer t ∧ t.empty = s.empty ∧ t.full = s.full ∧ t.call = s.call ∧
    (∀ k, Memory.read t.dst k = Memory.read s.dst k) ∧ s.SameInputs t ∧
    ∃ u, exec i t = .next u ∧ u.ret = t.ret

/-- R146: the value AVAILABLE read stays a lower bound of `count` while only the producer acts, and equals it when it was
C. -/
def Obligations.AvailableIsALowerBound : Prop :=
  ∀ (bytes : List Byte) (s t : State), s.count ≤ s.cap → exec .available s = .next t →
    ∃ u, runOps (bytes.map .rxEvent) t = .next u ∧ s.count ≤ u.count ∧ u.count ≤ u.cap ∧
      (s.count = s.cap → u.count = s.count)

/-! The receive side -/

/-- R96, the call's first step: `n = 0` and the test of AVAILABLE; nothing of the buffer changes and nothing is written yet.
The model's choices: the call is opened in the same step as its first test (log entry 7, DEDUCED), and the destination lists
nothing when a call begins (log entry 10, DESIGN CHOICE). -/
def Obligations.ReceiveStringBeginsWithTheTest : Prop :=
  ∀ (size : Nat) (s : State), s.call = none → ∃ t, exec (.receiveString size) s = .next t ∧
    t.call = some ⟨size, 0, if s.count = 0 then .terminate else .pop⟩ ∧
    (∀ k, Memory.read t.dst k = none) ∧ s.SameBuffer t ∧ t.ret = s.ret ∧ t.rsp.valid = false ∧ s.SameInputs t

/-- R96, the loop's steps: the test of AVAILABLE; the POP, after which the popped byte is to be written; the write of the byte
at offset `n`, after which `n + 1`; and after the loop the terminator at offset `n`, which is not counted, and the return
of `n`. The writes are inside the destination here; OverrunIsTheOnlyFault has the others, and LoopPopAfterALateReset the pop
that finds no byte.
R96 makes each AVAILABLE and each POP a step; the model's choice (log entry 7, DEDUCED) is that the write of the byte is a
step of its own and that the terminator and the return are one step. -/
def Obligations.ReceiveStringTakesTheLoopsSteps : Prop :=
  ∀ (size : Nat) (c : StringCall) (s : State), s.call = some c →
    (c.phase = .test → ∃ t, exec (.receiveString size) s = .next t ∧ s.SameBuffer t ∧
      t.call = some { c with phase := if s.count = 0 then .terminate else .pop } ∧
      (∀ k, Memory.read t.dst k = Memory.read s.dst k) ∧ t.ret = s.ret ∧ s.SameInputs t) ∧
    (c.phase = .pop → 0 < s.count → ∃ t, exec (.receiveString size) s = .next t ∧
      t.call = some { c with phase := .write (s.memRead s.tail) } ∧ t.rsp = ⟨true, s.memRead s.tail⟩ ∧
      t.tail = (s.tail + 1) % s.cap ∧ t.count = s.count - 1 ∧ t.head = s.head ∧
      (∀ a, Memory.read t.storage a = Memory.read s.storage a) ∧ t.log2Cap = s.log2Cap ∧
      (∀ k, Memory.read t.dst k = Memory.read s.dst k) ∧ t.ret = s.ret ∧ s.SameInputs t) ∧
    (∀ v, c.phase = .write v → c.n < c.size → ∃ t, exec (.receiveString size) s = .next t ∧ s.SameBuffer t ∧
      Memory.read t.dst c.n = some v ∧ (∀ k, k ≠ c.n → Memory.read t.dst k = Memory.read s.dst k) ∧
      t.call = some ⟨c.size, c.n + 1, .test⟩ ∧ t.ret = s.ret ∧ s.SameInputs t) ∧
    (c.phase = .terminate → c.n < c.size → ∃ t, exec (.receiveString size) s = .next t ∧ s.SameBuffer t ∧
      Memory.read t.dst c.n = some 0x00 ∧ (∀ k, k ≠ c.n → Memory.read t.dst k = Memory.read s.dst k) ∧
      t.call = none ∧ t.ret = .length c.n ∧ s.SameInputs t)

/-- R97: a write at an offset not inside the destination is a fault of the consumer's program, for a data byte and for the
terminator; nothing is truncated, wrapped or skipped; and no other step of the machine faults. -/
def Obligations.OverrunIsTheOnlyFault : Prop :=
  (∀ (size : Nat) (c : StringCall) (s : State), s.call = some c → c.size ≤ c.n →
    c.phase = .terminate ∨ (∃ v, c.phase = .write v) →
    exec (.receiveString size) s = .fault (.dstOverrun c.n c.size)) ∧
  (∀ (i : Instr) (s : State) (f : Fault), exec i s = .fault f → ∃ (size : Nat) (c : StringCall),
    i = .receiveString size ∧ s.call = some c ∧ c.size ≤ c.n ∧ f = .dstOverrun c.n c.size ∧
    (c.phase = .terminate ∨ ∃ v, c.phase = .write v))

/-- R96 as a whole, with no RX event during the call: receiveString on a buffer of `n` bytes returns `n` after `3 n + 2` steps,
has written the `n` bytes in the order pops return them and the terminator after them and nothing else, and leaves the
buffer empty.
The model's choices: the number of steps is that of log entry 7 (DEDUCED), and "nothing else" is said of a destination that
lists nothing when the call begins (log entry 10, DESIGN CHOICE). -/
def Obligations.ReceiveStringDrainsTheBuffer : Prop :=
  ∀ (size : Nat) (s : State), s.Inv → s.call = none → s.pending = [.op (.receiveString size)] → s.count < size →
    ∃ t, runSteps (3 * s.count + 2) s = .next t ∧
      t.ret = .length s.count ∧ t.call = none ∧ t.count = 0 ∧ t.empty = true ∧
      t.tail = (s.tail + s.count) % s.cap ∧ t.head = s.head ∧
      (∀ a, Memory.read t.storage a = Memory.read s.storage a) ∧
      (∀ k, k < s.count → Memory.read t.dst k = some (s.memRead ((s.tail + k) % s.cap))) ∧
      (popResults s.count s = (List.range s.count).map fun k => ⟨true, s.memRead ((s.tail + k) % s.cap)⟩) ∧
      Memory.read t.dst s.count = some 0x00 ∧ (∀ k, s.count < k → Memory.read t.dst k = none)

/-- R97 on a whole call: where the destination is too small for the bytes and the terminator and no RX event occurs, the call
ends in the overrun at the first offset outside, after exactly `size` bytes were written and, when a data byte overruns,
its pop performed.
The model's choices: the steps of log entry 7 (DEDUCED), and a destination that lists nothing when the call begins (log
entry 10, DESIGN CHOICE). -/
def Obligations.ReceiveStringOverrunsASmallDestination : Prop :=
  ∀ (size : Nat) (s : State), s.Inv → s.call = none → s.pending = [.op (.receiveString size)] → size ≤ s.count →
    ∃ (k : Nat) (u : State), runSteps k s = .next u ∧
      step u = .fault (.dstOverrun size size) ∧
      u.count = s.count - min s.count (size + 1) ∧
      (∀ j, j < size → Memory.read u.dst j = some (s.memRead ((s.tail + j) % s.cap))) ∧
      (∀ j, size ≤ j → Memory.read u.dst j = none)

/-- R101 for every text: into an empty buffer with no overflow outstanding, RX events for at most C bytes and then
receiveString into a large enough destination give back those bytes in order, their terminator and their number. The number of steps is that of log entry 7 (DEDUCED). -/
def Obligations.ReceivedTextComesBack : Prop :=
  ∀ (s : State) (g : Ghost) (bytes : List Byte) (size : Nat), Reachable s g → g.lost % s.cap = 0 → s.count = 0 →
    s.call = none → bytes.length ≤ s.cap → bytes.length < size →
    s.pending = bytes.map (fun b => Presented.op (.rxEvent b)) ++ [.op (.receiveString size)] →
    ∃ t, runSteps (4 * bytes.length + 2) s = .next t ∧ t.ret = .length bytes.length ∧ t.count = 0 ∧ t.call = none ∧
      (∀ k, k < bytes.length → Memory.read t.dst k = bytes[k]?) ∧ Memory.read t.dst bytes.length = some 0x00

/-- R98: while the producer pushes a byte before every test, the call does not return and `n` grows without bound: for every
`k` there is a schedule after which it is still in its loop with `k` more bytes written. The number of steps is that of log
entry 7 (DEDUCED). -/
def Obligations.ReceiveStringNeedNotReturn : Prop :=
  ∀ (k : Nat) (b : Byte) (size n : Nat) (s : State), s.call = some ⟨size, n, .test⟩ → n + k ≤ size →
    s.pending = starve b k →
    ∃ t, runSteps (4 * k) s = .next t ∧ t.call = some ⟨size, n + k, .test⟩ ∧ t.pending = []

/-- R96, corner case (a): from the test that found a byte to the pop only the producer can act and the pop finds a byte; a
reset in between is the spec's extension (D9) and is left out. -/
def Obligations.LoopPopFindsAByte : Prop :=
  (∀ s t : State, s.PopReady → s.fetch.1 ≠ .reset → step s = .next t → t.PopReady) ∧
  (∀ (s : State) (c : StringCall), s.PopReady → s.call = some c → c.phase = .pop → s.popResult.valid = true)

/-! Whole-machine rules -/

/-- R17, R129: who writes what. An operation in which the producer takes no part writes neither `storage` nor `head`, and with
it nothing but `storage[head]` is written; one in which the consumer takes no part writes no `tail`; the host's reset is the
only other writer, writes 0 to the three fields and writes no `storage`; AVAILABLE writes nothing; the producer alone never lowers `count` and the consumer alone never raises it; nobody writes the
capacity (R11).
The model's choice: an operation in which the consumer takes no part leaves the value last handed back, the destination and
the call alone; for RESET that is log entry 9 (DEDUCED, unsafe), and R17 does not say it.
That a push on a full buffer writes no `tail` either is R17's text and decision D8 (log entry 16, DEDUCED, unsafe). -/
def Obligations.EachAgentWritesOnlyItsFields : Prop :=
  ∀ (i : Instr) (s t : State), s.count ≤ s.cap → exec i s = .next t →
    (i.byProducer = false → ∀ a, Memory.read t.storage a = Memory.read s.storage a) ∧
    (∀ a, a ≠ s.head → Memory.read t.storage a = Memory.read s.storage a) ∧
    (i.byHost = true → t.head = 0 ∧ t.tail = 0 ∧ t.count = 0) ∧
    (i.byProducer = false → i.byHost = false → t.head = s.head) ∧
    (i.byConsumer = false → i.byHost = false → t.tail = s.tail) ∧
    (i.byConsumer = false → i.byHost = false → s.count ≤ t.count) ∧
    (i.byProducer = false → t.count ≤ s.count) ∧
    (i = .available ∨ i = .receiveAvailable ∨ i = .idle → s.SameBuffer t) ∧
    (i.byConsumer = false → s.SameConsumer t) ∧
    t.log2Cap = s.log2Cap

/-- R120, and R44: no operation of the block faults, refuses or waits, in any state; the only fault is the overrun of
receiveString's destination; and the machine as a whole refuses nothing. -/
def Obligations.EveryOperationIsAlwaysEnabled : Prop :=
  (∀ (i : Instr) (s : State), (∀ n, i ≠ .receiveString n) → ∃ t, exec i s = .next t) ∧
  (∀ (s : State) (f : Fault), step s = .fault f → ∃ offset size, f = .dstOverrun offset size ∧ size ≤ offset) ∧
  (∀ (s : State) (r : Refusal), step s ≠ .refused r)

/-- The invariant holds at reset; its clauses on the call and the destination by the model's reset values for them, no call
and nothing written (log entries 7 and 10). -/
def Obligations.InvHoldsAtReset : Prop :=
  ∀ w : Nat, (State.resetWith w).Inv ∧ (State.resetWith w).PopReady

/-- Every step keeps the invariant: the ranges of R22, both memories in canonical form, no slot outside `[0, C)`, and the call
in progress has written exactly the offsets below `n`, all inside its destination. -/
def Obligations.StepKeepsInv : Prop :=
  ∀ s t : State, s.Inv → step s = .next t → t.Inv

/-- R22: in every reachable state `head` and `tail` are below C and `count` is at most C. -/
def Obligations.RangesAlwaysHold : Prop :=
  ∀ (s : State) (g : Ghost), Reachable s g → s.head < s.cap ∧ s.tail < s.cap ∧ s.count ≤ s.cap

/-- R21: in every reachable state `head == (tail + count + L) mod C`, with L the number of pushes performed since reset while
`count == C`; with no overflow it is the textbook relation.
It rests on decision D8 (log entry 16, DEDUCED, unsafe): an overflow push holds `tail`. -/
def Obligations.PointerRelation : Prop :=
  ∀ (s : State) (g : Ghost), Reachable s g →
    s.head = (s.tail + s.count + g.lost) % s.cap ∧ (g.lost = 0 → s.head = (s.tail + s.count) % s.cap)

/-- R83: in every reachable state `count == P - L - Q`, and the source's clamped formula equals `count` exactly when `L == 0` or
`count == C`. -/
def Obligations.OccupancyAccounting : Prop :=
  ∀ (s : State) (g : Ghost), Reachable s g →
    g.pushes.length = s.count + g.lost + g.popped ∧
    (s.count = g.pushes.length - g.lost - g.popped) ∧
    (s.count = min (g.pushes.length - g.popped) s.cap ↔ g.lost = 0 ∨ s.count = s.cap)

/-- A step, whatever it performs, keeps buffer and history together (R19, R21, R80, R83).
It rests on decision D8 (log entry 16, DEDUCED, unsafe): an overflow push holds `tail`. -/
def Obligations.StepKeepsHistoryLinked : Prop :=
  ∀ (s t : State) (g : Ghost), Linked s g → step s = .next t → Linked t (g.next s.fetch.1 s.fetch.2)

/-- R19: a pop that returns a byte returns one that was pushed since reset: what storage held before cannot be observed. -/
def Obligations.PopsReturnOnlyPushedBytes : Prop :=
  ∀ (s : State) (g : Ghost), Reachable s g → 0 < s.count →
    ∃ v, Memory.read s.storage s.tail = some v ∧ v ∈ g.pushes ∧ s.popResult = ⟨true, v⟩

/-- R80: once C bytes have been pushed, slot `(h - k) mod C` holds the k-th most recent byte, and pop number `i` of a row of
`count` pops returns the m-th most recent with `m = ((n + delta - i - 1) mod C) + 1`, `delta = L mod C`.
It rests on decision D8 (log entry 16, DEDUCED, unsafe): an overflow push holds `tail`. -/
def Obligations.PopsReturnTheShiftedWindow : Prop :=
  ∀ (s : State) (g : Ghost), Reachable s g → s.cap ≤ g.pushes.length →
    (∀ k, 1 ≤ k → k ≤ s.cap → Memory.read s.storage ((s.head + s.cap - k) % s.cap) = g.pushes[k - 1]?) ∧
    (∀ i, i < s.count → ∃ v, g.pushes[(s.count + g.lost % s.cap - i - 1) % s.cap]? = some v ∧
      (popResults s.count s)[i]? = some ⟨true, v⟩)

/-- R82: in a state with no overflow outstanding (`L mod C == 0`), `count` pops return the last `count` pushed bytes in arrival
order. -/
def Obligations.AlignedPopsAreInArrivalOrder : Prop :=
  ∀ (s : State) (g : Ghost), Reachable s g → g.lost % s.cap = 0 →
    popResults s.count s = ((g.pushes.take s.count).reverse).map fun v => ⟨true, v⟩

/-- R82, R81: from an empty buffer, N pushes and then N pops (N at most C) return the pushed bytes in order exactly when
`head == tail`. A run reaches an empty buffer with the two apart only after an overflow that held `tail` (decision D8, log
entry 16, DEDUCED, unsafe). -/
def Obligations.FifoExactlyWhenAligned : Prop :=
  ∀ s : State, s.head < s.cap → s.tail < s.cap → s.count = 0 →
    ((∀ bytes : List Byte, bytes.length ≤ s.cap → ∃ t, runOps (bytes.map .push) s = .next t ∧
      popResults bytes.length t = bytes.map fun v => ⟨true, v⟩) ↔ s.head = s.tail)

/-- R81: from an empty buffer with `head` and `tail` apart, a push and then a pop return what slot `tail` held before, whatever
was pushed. A run reaches such a state only after an overflow that held `tail` (decision D8, log entry 16, DEDUCED,
unsafe). -/
def Obligations.ShiftedBufferReturnsStaleBytes : Prop :=
  ∀ (s : State) (d : Byte), s.head < s.cap → s.tail < s.cap → s.count = 0 → s.head ≠ s.tail →
    ∃ u t, exec (.push d) s = .next u ∧ exec .pop u = .next t ∧ t.ret = .popped ⟨true, s.memRead s.tail⟩ ∧
      t.count = 0 ∧ t.head ≠ t.tail

/-- R84: after `C + k` pushes from reset, `count == C`, `head == k mod C`, `tail == 0`, `storage` holds exactly the last C pushed
bytes, each in the slot of its push number mod C, and C pops return them in slot order.
It rests on decision D8 (log entry 16, DEDUCED, unsafe): an overflow push holds `tail`. -/
def Obligations.OverflowKeepsTheLastBytesInSlotOrder : Prop :=
  ∀ (w k : Nat) (bytes : List Byte), bytes.length = 2 ^ w + k →
    ∃ t, runOps (bytes.map .push) (State.resetWith w) = .next t ∧
      t.count = t.cap ∧ t.cap = 2 ^ w ∧ t.head = k % 2 ^ w ∧ t.tail = 0 ∧
      (∀ m, k ≤ m → m < 2 ^ w + k → Memory.read t.storage (m % 2 ^ w) = bytes[m]?) ∧
      (∀ a, 2 ^ w ≤ a → Memory.read t.storage a = none) ∧
      popResults (2 ^ w) t = (List.range (2 ^ w)).map fun j => ⟨true, t.memRead j⟩

/-! Ports, flags, encodings of values -/

/-- R24: `empty` and `full` follow `count` alone; after reset `empty = 1` and `full = 0`. -/
def Obligations.FlagsFollowCount : Prop :=
  (∀ s : State, (s.empty = true ↔ s.count = 0) ∧ (s.full = true ↔ s.count = s.cap)) ∧
  (∀ s t : State, s.cap = t.cap → s.count = t.count → s.empty = t.empty ∧ s.full = t.full) ∧
  (∀ w : Nat, (State.resetWith w).empty = true ∧ (State.resetWith w).full = false)

/-- R16, R56: `count` fits its `W + 1` bits and a wider integer receives it zero-extended. -/
def Obligations.CountPortShowsCount : Prop :=
  ∀ s : State, s.count ≤ s.cap →
    s.countPort.toNat = s.count ∧ ∀ n, s.log2Cap + 1 ≤ n → (s.countZext n).toNat = s.count

/-- R57, R145: a pop returns EMPTY or (1, byte); EMPTY's data is 0xFF, -1 as a signed value at every width from 8 up; the data alone does not tell EMPTY from a
received 0xFF, and `rd_valid` does. -/
def Obligations.SentinelCollidesWithADataByte : Prop :=
  (∀ s : State, ∃ t, exec .pop s = .next t ∧ (s.count = 0 → t.rsp = PopResult.empty) ∧
    (0 < s.count → ∃ v, t.rsp = PopResult.byte v)) ∧
  PopResult.empty = ⟨false, 0xFF⟩ ∧ (∀ v : Byte, PopResult.byte v = ⟨true, v⟩) ∧
  (∀ n, 8 ≤ n → (PopResult.empty.sext n).toInt = -1) ∧
  (∀ v : Byte, (PopResult.byte v).single = PopResult.empty.single ↔ v = 0xFF) ∧
  (∀ v : Byte, PopResult.byte v ≠ PopResult.empty)

/-- R34, R59: the index after `i` is the bitmask `(i + 1) & (C - 1)`, the index after `C - 1` is 0, and it is always in range. -/
def Obligations.IndexWrapIsABitmask : Prop :=
  ∀ (s : State) (i : Nat), s.succIndex i = (i + 1) &&& (s.cap - 1) ∧ s.succIndex (s.cap - 1) = 0 ∧ s.succIndex i < s.cap

/-- R11, R61: the source's bit test, with 0 excluded, accepts exactly the powers of two, the capacities the machine can have. -/
def Obligations.CapacitiesArePowersOfTwo : Prop :=
  ∀ c : Nat, capacityWf c = true ↔ ∃ s : State, s.cap = c

/-! Outside the block -/

/-- R105: `sendByte` writes its byte once `tx_empty` answers 1 and nothing before; while it answers 0 the call has not
returned. -/
def Obligations.SendByteWaitsForTheRegister : Prop :=
  (∀ (b : Byte) (n : Nat), sendByte b (List.replicate n false) = ([], .waiting)) ∧
  (∀ (b : Byte) (n : Nat) (polls : List Bool),
    sendByte b (List.replicate n false ++ true :: polls) = ([b], .returned polls))

/-- R106, R107: whatever the polls answer, what has been sent is a first part of the text before its zero byte; a call that
returned has sent all of it, and the zero byte is never sent. -/
def Obligations.SendStringSendsUpToTheTerminator : Prop :=
  (∀ (text rest : List Byte) (polls : List Bool), (0x00 : Byte) ∉ text →
    (sendString (text ++ 0x00 :: rest) polls).1 <+: text ∧
    (∀ left, (sendString (text ++ 0x00 :: rest) polls).2 = .returned left →
      (sendString (text ++ 0x00 :: rest) polls).1 = text)) ∧
  (∀ (α : Type) (element : α → Byte) (text : List α) (polls : List Bool),
    sendProgramString element text polls = sendString (text.map element) polls)

/-- R110: the divisor is the truncated quotient less one. The source does not say how the division rounds; truncation is the
spec's decision D16. The model's choice (log entry 18, DESIGN CHOICE): the result is an integer without a width, so at
`q = 0` it is -1 and does not clip. -/
def Obligations.DivisorTruncates : Prop :=
  ∀ clock baud q : Nat, 0 < baud → q * (16 * baud) ≤ clock → clock < (q + 1) * (16 * baud) →
    baudDivisor clock baud = (q : Int) - 1

/-! A reset inside receiveString -/

/-- The loop's pop that finds no byte, which only a RESET after the call's test can bring about: the pop returns EMPTY and
leaves the buffer as it is (R75), and the loop goes on to write the data `0xFF` it was handed.
The model's choice (log entry 9, DEDUCED, unsafe): R96 has no such case, since a RESET later than start-up is the spec's own
extension (D9); the program text of R96 is taken literally. -/
def Obligations.LoopPopAfterALateReset : Prop :=
  (∀ (c : StringCall) (s : State), s.call = some c → c.phase = .pop → ∃ t, exec .reset s = .next t ∧
    t.call = some c ∧ t.count = 0) ∧
  ∀ (size : Nat) (c : StringCall) (s : State), s.call = some c → c.phase = .pop → s.count = 0 →
    ∃ t, exec (.receiveString size) s = .next t ∧ s.SameBuffer t ∧ t.rsp = ⟨false, 0xFF⟩ ∧
      t.call = some { c with phase := .write 0xFF } ∧
      (∀ k, Memory.read t.dst k = Memory.read s.dst k) ∧ t.ret = s.ret ∧ s.SameInputs t
end

