-- ==== Sys2Proof/Laws/Decode.lean ====
section
/-! SUPPORT. The fields of a request built from its fields, the operation it selects, and how a presented request is
performed (30_encoding.md R53, R54). -/

namespace Sys2Proof

@[simp] theorem Req.rst_mk (a b c : Bool) (d : Byte) : Req.rst (Req.mk a b c d) = a := by
  cases a <;> cases b <;> cases c <;> revert d <;> decide +kernel

@[simp] theorem Req.rdEn_mk (a b c : Bool) (d : Byte) : Req.rdEn (Req.mk a b c d) = b := by
  cases a <;> cases b <;> cases c <;> revert d <;> decide +kernel

@[simp] theorem Req.wrEn_mk (a b c : Bool) (d : Byte) : Req.wrEn (Req.mk a b c d) = c := by
  cases a <;> cases b <;> cases c <;> revert d <;> decide +kernel

@[simp] theorem Req.wrData_mk (a b c : Bool) (d : Byte) : Req.wrData (Req.mk a b c d) = d := by
  cases a <;> cases b <;> cases c <;> revert d <;> decide +kernel

/-- A request is its four fields. -/
theorem Req.mk_fields (r : Req) : Req.mk (Req.rst r) (Req.rdEn r) (Req.wrEn r) (Req.wrData r) = r := by
  revert r
  decide +kernel

theorem decode_of_rst {r : Req} (h : Req.rst r = true) : decode r = .reset := by
  simp [decode, h]

theorem decode_of_idle {r : Req} (h : Req.rst r = false) (hr : Req.rdEn r = false) (hw : Req.wrEn r = false) :
    decode r = .idle := by
  simp [decode, h, hr, hw]

theorem decode_of_push {r : Req} (h : Req.rst r = false) (hr : Req.rdEn r = false) (hw : Req.wrEn r = true) :
    decode r = .push (Req.wrData r) := by
  simp [decode, h, hr, hw]

theorem decode_of_pop {r : Req} (h : Req.rst r = false) (hr : Req.rdEn r = true) (hw : Req.wrEn r = false) :
    decode r = .pop := by
  simp [decode, h, hr, hw]

theorem decode_of_pushPop {r : Req} (h : Req.rst r = false) (hr : Req.rdEn r = true) (hw : Req.wrEn r = true) :
    decode r = .pushPop (Req.wrData r) := by
  simp [decode, h, hr, hw]

/-- The container of an 11-bit number holds that request. -/
theorem requestOfBytes_wordBytes {w : Nat} (hw : w < 2048) : requestOfBytes (wordBytes w) = .ok (BitVec.ofNat 11 w) := by
  have h1 : w < 65536 := by omega
  have h2 : w / 256 % 256 < 8 := by omega
  simp only [wordBytes, requestOfBytes, h1, if_true, BitVec.toNat_ofNat, Nat.reducePow, h2]
  congr 1
  apply BitVec.eq_of_toNat_eq
  rw [BitVec.toNat_append, ← Nat.shiftLeft_add_eq_or_of_lt (BitVec.isLt _), Nat.shiftLeft_eq]
  simp
  omega

/-- A presented request is what the next step performs. -/
theorem Machine.step_presentRequest (r : Req) (s : State) :
    step (s.presentRequest r) = exec (decode r) { s with call := if (decode r).byConsumer then none else s.call } := by
  unfold step State.fetch State.presentRequest State.mustWait
  cases hc : (decode r).byConsumer <;> simp [Presented.instr, hc]

end Sys2Proof
end

