-- ==== Sys2Proof/Laws/State.lean ====
section
/-! SUPPORT. The fields of every update of State, one lemma per field per update, so that no later proof unfolds a record
update. Each is proved by `by rfl`, not `:= rfl`, so that simp rewrites an `if` together with its decision instance. -/

namespace Sys2Proof.Machine

/-! `pushBlock` -/

@[simp] theorem pushBlock_log2Cap (d : Byte) (s : State) : (s.pushBlock d).log2Cap = s.log2Cap := by rfl
@[simp] theorem pushBlock_storage (d : Byte) (s : State) : (s.pushBlock d).storage = Memory.write s.storage s.head d := by rfl
@[simp] theorem pushBlock_head (d : Byte) (s : State) : (s.pushBlock d).head = s.succIndex s.head := by rfl
@[simp] theorem pushBlock_tail (d : Byte) (s : State) : (s.pushBlock d).tail = s.tail := by rfl
@[simp] theorem pushBlock_count (d : Byte) (s : State) : (s.pushBlock d).count = if s.count < s.cap then s.count + 1 else s.cap := by rfl
@[simp] theorem pushBlock_rsp (d : Byte) (s : State) : (s.pushBlock d).rsp = s.rsp := by rfl
@[simp] theorem pushBlock_ret (d : Byte) (s : State) : (s.pushBlock d).ret = s.ret := by rfl
@[simp] theorem pushBlock_dst (d : Byte) (s : State) : (s.pushBlock d).dst = s.dst := by rfl
@[simp] theorem pushBlock_call (d : Byte) (s : State) : (s.pushBlock d).call = s.call := by rfl
@[simp] theorem pushBlock_pending (d : Byte) (s : State) : (s.pushBlock d).pending = s.pending := by rfl
@[simp] theorem pushBlock_orders (d : Byte) (s : State) : (s.pushBlock d).orders = s.orders := by rfl
@[simp] theorem pushBlock_tick (d : Byte) (s : State) : (s.pushBlock d).tick = s.tick := by rfl
@[simp] theorem pushBlock_cap (d : Byte) (s : State) : (s.pushBlock d).cap = s.cap := by rfl

/-! `popBlock` -/

@[simp] theorem popBlock_log2Cap (s : State) : (s.popBlock).log2Cap = s.log2Cap := by rfl
@[simp] theorem popBlock_storage (s : State) : (s.popBlock).storage = s.storage := by rfl
@[simp] theorem popBlock_head (s : State) : (s.popBlock).head = s.head := by rfl
@[simp] theorem popBlock_tail (s : State) : (s.popBlock).tail = if s.count = 0 then s.tail else s.succIndex s.tail := by rfl
@[simp] theorem popBlock_count (s : State) : (s.popBlock).count = s.count - 1 := by rfl
@[simp] theorem popBlock_rsp (s : State) : (s.popBlock).rsp = s.rsp := by rfl
@[simp] theorem popBlock_ret (s : State) : (s.popBlock).ret = s.ret := by rfl
@[simp] theorem popBlock_dst (s : State) : (s.popBlock).dst = s.dst := by rfl
@[simp] theorem popBlock_call (s : State) : (s.popBlock).call = s.call := by rfl
@[simp] theorem popBlock_pending (s : State) : (s.popBlock).pending = s.pending := by rfl
@[simp] theorem popBlock_orders (s : State) : (s.popBlock).orders = s.orders := by rfl
@[simp] theorem popBlock_tick (s : State) : (s.popBlock).tick = s.tick := by rfl
@[simp] theorem popBlock_cap (s : State) : (s.popBlock).cap = s.cap := by rfl

/-! `resetBlock` -/

@[simp] theorem resetBlock_log2Cap (s : State) : (s.resetBlock).log2Cap = s.log2Cap := by rfl
@[simp] theorem resetBlock_storage (s : State) : (s.resetBlock).storage = s.storage := by rfl
@[simp] theorem resetBlock_head (s : State) : (s.resetBlock).head = 0 := by rfl
@[simp] theorem resetBlock_tail (s : State) : (s.resetBlock).tail = 0 := by rfl
@[simp] theorem resetBlock_count (s : State) : (s.resetBlock).count = 0 := by rfl
@[simp] theorem resetBlock_rsp (s : State) : (s.resetBlock).rsp = s.rsp := by rfl
@[simp] theorem resetBlock_ret (s : State) : (s.resetBlock).ret = s.ret := by rfl
@[simp] theorem resetBlock_dst (s : State) : (s.resetBlock).dst = s.dst := by rfl
@[simp] theorem resetBlock_call (s : State) : (s.resetBlock).call = s.call := by rfl
@[simp] theorem resetBlock_pending (s : State) : (s.resetBlock).pending = s.pending := by rfl
@[simp] theorem resetBlock_orders (s : State) : (s.resetBlock).orders = s.orders := by rfl
@[simp] theorem resetBlock_tick (s : State) : (s.resetBlock).tick = s.tick := by rfl
@[simp] theorem resetBlock_cap (s : State) : (s.resetBlock).cap = s.cap := by rfl

/-! `respond` -/

@[simp] theorem respond_log2Cap (r : PopResult) (s : State) : (s.respond r).log2Cap = s.log2Cap := by rfl
@[simp] theorem respond_storage (r : PopResult) (s : State) : (s.respond r).storage = s.storage := by rfl
@[simp] theorem respond_head (r : PopResult) (s : State) : (s.respond r).head = s.head := by rfl
@[simp] theorem respond_tail (r : PopResult) (s : State) : (s.respond r).tail = s.tail := by rfl
@[simp] theorem respond_count (r : PopResult) (s : State) : (s.respond r).count = s.count := by rfl
@[simp] theorem respond_rsp (r : PopResult) (s : State) : (s.respond r).rsp = r := by rfl
@[simp] theorem respond_ret (r : PopResult) (s : State) : (s.respond r).ret = s.ret := by rfl
@[simp] theorem respond_dst (r : PopResult) (s : State) : (s.respond r).dst = s.dst := by rfl
@[simp] theorem respond_call (r : PopResult) (s : State) : (s.respond r).call = s.call := by rfl
@[simp] theorem respond_pending (r : PopResult) (s : State) : (s.respond r).pending = s.pending := by rfl
@[simp] theorem respond_orders (r : PopResult) (s : State) : (s.respond r).orders = s.orders := by rfl
@[simp] theorem respond_tick (r : PopResult) (s : State) : (s.respond r).tick = s.tick + 1 := by rfl
@[simp] theorem respond_cap (r : PopResult) (s : State) : (s.respond r).cap = s.cap := by rfl

/-! `quiet` -/

@[simp] theorem quiet_log2Cap (s : State) : (s.quiet).log2Cap = s.log2Cap := by rfl
@[simp] theorem quiet_storage (s : State) : (s.quiet).storage = s.storage := by rfl
@[simp] theorem quiet_head (s : State) : (s.quiet).head = s.head := by rfl
@[simp] theorem quiet_tail (s : State) : (s.quiet).tail = s.tail := by rfl
@[simp] theorem quiet_count (s : State) : (s.quiet).count = s.count := by rfl
@[simp] theorem quiet_rsp (s : State) : (s.quiet).rsp = ⟨false, Config.idleRdData (s.tick + 1)⟩ := by rfl
@[simp] theorem quiet_ret (s : State) : (s.quiet).ret = s.ret := by rfl
@[simp] theorem quiet_dst (s : State) : (s.quiet).dst = s.dst := by rfl
@[simp] theorem quiet_call (s : State) : (s.quiet).call = s.call := by rfl
@[simp] theorem quiet_pending (s : State) : (s.quiet).pending = s.pending := by rfl
@[simp] theorem quiet_orders (s : State) : (s.quiet).orders = s.orders := by rfl
@[simp] theorem quiet_tick (s : State) : (s.quiet).tick = s.tick + 1 := by rfl
@[simp] theorem quiet_cap (s : State) : (s.quiet).cap = s.cap := by rfl

/-! `popStep` -/

@[simp] theorem popStep_log2Cap (s : State) : (s.popStep).log2Cap = s.log2Cap := by rfl
@[simp] theorem popStep_storage (s : State) : (s.popStep).storage = s.storage := by rfl
@[simp] theorem popStep_head (s : State) : (s.popStep).head = s.head := by rfl
@[simp] theorem popStep_tail (s : State) : (s.popStep).tail = if s.count = 0 then s.tail else s.succIndex s.tail := by rfl
@[simp] theorem popStep_count (s : State) : (s.popStep).count = s.count - 1 := by rfl
@[simp] theorem popStep_rsp (s : State) : (s.popStep).rsp = s.popResult := by rfl
@[simp] theorem popStep_ret (s : State) : (s.popStep).ret = s.ret := by rfl
@[simp] theorem popStep_dst (s : State) : (s.popStep).dst = s.dst := by rfl
@[simp] theorem popStep_call (s : State) : (s.popStep).call = s.call := by rfl
@[simp] theorem popStep_pending (s : State) : (s.popStep).pending = s.pending := by rfl
@[simp] theorem popStep_orders (s : State) : (s.popStep).orders = s.orders := by rfl
@[simp] theorem popStep_tick (s : State) : (s.popStep).tick = s.tick + 1 := by rfl
@[simp] theorem popStep_cap (s : State) : (s.popStep).cap = s.cap := by rfl

/-! `handBack` -/

@[simp] theorem handBack_log2Cap (v : Ret) (s : State) : (s.handBack v).log2Cap = s.log2Cap := by rfl
@[simp] theorem handBack_storage (v : Ret) (s : State) : (s.handBack v).storage = s.storage := by rfl
@[simp] theorem handBack_head (v : Ret) (s : State) : (s.handBack v).head = s.head := by rfl
@[simp] theorem handBack_tail (v : Ret) (s : State) : (s.handBack v).tail = s.tail := by rfl
@[simp] theorem handBack_count (v : Ret) (s : State) : (s.handBack v).count = s.count := by rfl
@[simp] theorem handBack_rsp (v : Ret) (s : State) : (s.handBack v).rsp = s.rsp := by rfl
@[simp] theorem handBack_ret (v : Ret) (s : State) : (s.handBack v).ret = v := by rfl
@[simp] theorem handBack_dst (v : Ret) (s : State) : (s.handBack v).dst = s.dst := by rfl
@[simp] theorem handBack_call (v : Ret) (s : State) : (s.handBack v).call = s.call := by rfl
@[simp] theorem handBack_pending (v : Ret) (s : State) : (s.handBack v).pending = s.pending := by rfl
@[simp] theorem handBack_orders (v : Ret) (s : State) : (s.handBack v).orders = s.orders := by rfl
@[simp] theorem handBack_tick (v : Ret) (s : State) : (s.handBack v).tick = s.tick := by rfl
@[simp] theorem handBack_cap (v : Ret) (s : State) : (s.handBack v).cap = s.cap := by rfl

/-! `dropOrder` -/

@[simp] theorem dropOrder_log2Cap (s : State) : (s.dropOrder).log2Cap = s.log2Cap := by rfl
@[simp] theorem dropOrder_storage (s : State) : (s.dropOrder).storage = s.storage := by rfl
@[simp] theorem dropOrder_head (s : State) : (s.dropOrder).head = s.head := by rfl
@[simp] theorem dropOrder_tail (s : State) : (s.dropOrder).tail = s.tail := by rfl
@[simp] theorem dropOrder_count (s : State) : (s.dropOrder).count = s.count := by rfl
@[simp] theorem dropOrder_rsp (s : State) : (s.dropOrder).rsp = s.rsp := by rfl
@[simp] theorem dropOrder_ret (s : State) : (s.dropOrder).ret = s.ret := by rfl
@[simp] theorem dropOrder_dst (s : State) : (s.dropOrder).dst = s.dst := by rfl
@[simp] theorem dropOrder_call (s : State) : (s.dropOrder).call = s.call := by rfl
@[simp] theorem dropOrder_pending (s : State) : (s.dropOrder).pending = s.pending := by rfl
@[simp] theorem dropOrder_orders (s : State) : (s.dropOrder).orders = s.orders.tail := by rfl
@[simp] theorem dropOrder_tick (s : State) : (s.dropOrder).tick = s.tick := by rfl
@[simp] theorem dropOrder_cap (s : State) : (s.dropOrder).cap = s.cap := by rfl

/-! `setCall` -/

@[simp] theorem setCall_log2Cap (c : Option StringCall) (s : State) : (s.setCall c).log2Cap = s.log2Cap := by rfl
@[simp] theorem setCall_storage (c : Option StringCall) (s : State) : (s.setCall c).storage = s.storage := by rfl
@[simp] theorem setCall_head (c : Option StringCall) (s : State) : (s.setCall c).head = s.head := by rfl
@[simp] theorem setCall_tail (c : Option StringCall) (s : State) : (s.setCall c).tail = s.tail := by rfl
@[simp] theorem setCall_count (c : Option StringCall) (s : State) : (s.setCall c).count = s.count := by rfl
@[simp] theorem setCall_rsp (c : Option StringCall) (s : State) : (s.setCall c).rsp = s.rsp := by rfl
@[simp] theorem setCall_ret (c : Option StringCall) (s : State) : (s.setCall c).ret = s.ret := by rfl
@[simp] theorem setCall_dst (c : Option StringCall) (s : State) : (s.setCall c).dst = s.dst := by rfl
@[simp] theorem setCall_call (c : Option StringCall) (s : State) : (s.setCall c).call = c := by rfl
@[simp] theorem setCall_pending (c : Option StringCall) (s : State) : (s.setCall c).pending = s.pending := by rfl
@[simp] theorem setCall_orders (c : Option StringCall) (s : State) : (s.setCall c).orders = s.orders := by rfl
@[simp] theorem setCall_tick (c : Option StringCall) (s : State) : (s.setCall c).tick = s.tick := by rfl
@[simp] theorem setCall_cap (c : Option StringCall) (s : State) : (s.setCall c).cap = s.cap := by rfl

/-! `dstWrite` -/

@[simp] theorem dstWrite_log2Cap (k : Nat) (v : Byte) (s : State) : (s.dstWrite k v).log2Cap = s.log2Cap := by rfl
@[simp] theorem dstWrite_storage (k : Nat) (v : Byte) (s : State) : (s.dstWrite k v).storage = s.storage := by rfl
@[simp] theorem dstWrite_head (k : Nat) (v : Byte) (s : State) : (s.dstWrite k v).head = s.head := by rfl
@[simp] theorem dstWrite_tail (k : Nat) (v : Byte) (s : State) : (s.dstWrite k v).tail = s.tail := by rfl
@[simp] theorem dstWrite_count (k : Nat) (v : Byte) (s : State) : (s.dstWrite k v).count = s.count := by rfl
@[simp] theorem dstWrite_rsp (k : Nat) (v : Byte) (s : State) : (s.dstWrite k v).rsp = s.rsp := by rfl
@[simp] theorem dstWrite_ret (k : Nat) (v : Byte) (s : State) : (s.dstWrite k v).ret = s.ret := by rfl
@[simp] theorem dstWrite_dst (k : Nat) (v : Byte) (s : State) : (s.dstWrite k v).dst = Memory.write s.dst k v := by rfl
@[simp] theorem dstWrite_call (k : Nat) (v : Byte) (s : State) : (s.dstWrite k v).call = s.call := by rfl
@[simp] theorem dstWrite_pending (k : Nat) (v : Byte) (s : State) : (s.dstWrite k v).pending = s.pending := by rfl
@[simp] theorem dstWrite_orders (k : Nat) (v : Byte) (s : State) : (s.dstWrite k v).orders = s.orders := by rfl
@[simp] theorem dstWrite_tick (k : Nat) (v : Byte) (s : State) : (s.dstWrite k v).tick = s.tick := by rfl
@[simp] theorem dstWrite_cap (k : Nat) (v : Byte) (s : State) : (s.dstWrite k v).cap = s.cap := by rfl

/-! `beginString` -/

@[simp] theorem beginString_log2Cap (n : Nat) (s : State) : (s.beginString n).log2Cap = s.log2Cap := by rfl
@[simp] theorem beginString_storage (n : Nat) (s : State) : (s.beginString n).storage = s.storage := by rfl
@[simp] theorem beginString_head (n : Nat) (s : State) : (s.beginString n).head = s.head := by rfl
@[simp] theorem beginString_tail (n : Nat) (s : State) : (s.beginString n).tail = s.tail := by rfl
@[simp] theorem beginString_count (n : Nat) (s : State) : (s.beginString n).count = s.count := by rfl
@[simp] theorem beginString_rsp (n : Nat) (s : State) : (s.beginString n).rsp = s.rsp := by rfl
@[simp] theorem beginString_ret (n : Nat) (s : State) : (s.beginString n).ret = s.ret := by rfl
@[simp] theorem beginString_dst (n : Nat) (s : State) : (s.beginString n).dst = [] := by rfl
@[simp] theorem beginString_call (n : Nat) (s : State) : (s.beginString n).call = some ⟨n, 0, .test⟩ := by rfl
@[simp] theorem beginString_pending (n : Nat) (s : State) : (s.beginString n).pending = s.pending := by rfl
@[simp] theorem beginString_orders (n : Nat) (s : State) : (s.beginString n).orders = s.orders := by rfl
@[simp] theorem beginString_tick (n : Nat) (s : State) : (s.beginString n).tick = s.tick := by rfl
@[simp] theorem beginString_cap (n : Nat) (s : State) : (s.beginString n).cap = s.cap := by rfl

/-! `pushPopBlock`: `storage` and `head` are the same in both orders (R76) -/

@[simp] theorem pushPopBlock_log2Cap (o : SimulOrder) (d : Byte) (s : State) : (s.pushPopBlock o d).log2Cap = s.log2Cap := by
  cases o <;> rfl
@[simp] theorem pushPopBlock_rsp (o : SimulOrder) (d : Byte) (s : State) : (s.pushPopBlock o d).rsp = s.rsp := by
  cases o <;> rfl
@[simp] theorem pushPopBlock_ret (o : SimulOrder) (d : Byte) (s : State) : (s.pushPopBlock o d).ret = s.ret := by
  cases o <;> rfl
@[simp] theorem pushPopBlock_dst (o : SimulOrder) (d : Byte) (s : State) : (s.pushPopBlock o d).dst = s.dst := by
  cases o <;> rfl
@[simp] theorem pushPopBlock_call (o : SimulOrder) (d : Byte) (s : State) : (s.pushPopBlock o d).call = s.call := by
  cases o <;> rfl
@[simp] theorem pushPopBlock_pending (o : SimulOrder) (d : Byte) (s : State) : (s.pushPopBlock o d).pending = s.pending := by
  cases o <;> rfl
@[simp] theorem pushPopBlock_orders (o : SimulOrder) (d : Byte) (s : State) : (s.pushPopBlock o d).orders = s.orders := by
  cases o <;> rfl
@[simp] theorem pushPopBlock_tick (o : SimulOrder) (d : Byte) (s : State) : (s.pushPopBlock o d).tick = s.tick := by
  cases o <;> rfl
@[simp] theorem pushPopBlock_cap (o : SimulOrder) (d : Byte) (s : State) : (s.pushPopBlock o d).cap = s.cap := by
  cases o <;> rfl
@[simp] theorem pushPopBlock_storage (o : SimulOrder) (d : Byte) (s : State) :
    (s.pushPopBlock o d).storage = Memory.write s.storage s.head d := by
  cases o <;> rfl
@[simp] theorem pushPopBlock_head (o : SimulOrder) (d : Byte) (s : State) :
    (s.pushPopBlock o d).head = s.succIndex s.head := by
  cases o <;> rfl

/-! The state after reset -/

@[simp] theorem resetWith_log2Cap (w : Nat) : (State.resetWith w).log2Cap = w := by rfl
@[simp] theorem resetWith_storage (w : Nat) : (State.resetWith w).storage = [] := by rfl
@[simp] theorem resetWith_head (w : Nat) : (State.resetWith w).head = 0 := by rfl
@[simp] theorem resetWith_tail (w : Nat) : (State.resetWith w).tail = 0 := by rfl
@[simp] theorem resetWith_count (w : Nat) : (State.resetWith w).count = 0 := by rfl
@[simp] theorem resetWith_rsp (w : Nat) : (State.resetWith w).rsp = ⟨false, Config.idleRdData 0⟩ := by rfl
@[simp] theorem resetWith_ret (w : Nat) : (State.resetWith w).ret = .nothing := by rfl
@[simp] theorem resetWith_dst (w : Nat) : (State.resetWith w).dst = [] := by rfl
@[simp] theorem resetWith_call (w : Nat) : (State.resetWith w).call = none := by rfl
@[simp] theorem resetWith_pending (w : Nat) : (State.resetWith w).pending = [] := by rfl
@[simp] theorem resetWith_orders (w : Nat) : (State.resetWith w).orders = [] := by rfl
@[simp] theorem resetWith_tick (w : Nat) : (State.resetWith w).tick = 0 := by rfl
@[simp] theorem resetWith_cap (w : Nat) : (State.resetWith w).cap = 2 ^ w := by rfl

/-! The capacity and the index arithmetic -/

theorem cap_pos (s : State) : 0 < s.cap := Nat.two_pow_pos s.log2Cap

theorem succIndex_lt (s : State) (i : Nat) : s.succIndex i < s.cap := Nat.mod_lt _ (cap_pos s)

end Sys2Proof.Machine
end

