-- ==== Sys2Proof/Laws/Ops.lean ====
section
/-! SUPPORT. What each shared operation and each meaning can do, said once: the equations of `exec`, the inversion of
receiveString's step and of `fetch`, and the invariant kept by the buffer's push, pop and reset. -/

namespace Sys2Proof.Machine

/-! The equations of `exec` -/

theorem exec_reset (s : State) : exec .reset s = .next s.resetBlock.quiet := rfl
theorem exec_idle (s : State) : exec .idle s = .next s.quiet := rfl
theorem exec_push (d : Byte) (s : State) : exec (.push d) s = .next (s.pushBlock d).quiet := rfl
theorem exec_pop (s : State) : exec .pop s = .next (s.popStep.handBack (.popped s.popResult)) := rfl
theorem exec_pushPop (d : Byte) (s : State) : exec (.pushPop d) s =
    .next (((s.pushPopBlock s.order d).dropOrder.respond (s.pushPopResult s.order d)).handBack
      (.popped (s.pushPopResult s.order d))) := rfl
theorem exec_available (s : State) : exec .available s = .next (s.quiet.handBack (.occupancy s.count)) := rfl
theorem exec_rxEvent (b : Byte) (s : State) : exec (.rxEvent b) s = .next (s.pushBlock b).quiet := rfl
theorem exec_receiveAvailable (s : State) :
    exec .receiveAvailable s = .next (s.quiet.handBack (.occupancy s.count)) := rfl
theorem exec_receiveByte (s : State) :
    exec .receiveByte s = .next (s.popStep.handBack (.popped s.popResult)) := rfl

theorem exec_receiveString_begin {s : State} (n : Nat) (h : s.call = none) :
    exec (.receiveString n) s = stringTest ⟨n, 0, .test⟩ (s.beginString n) := by
  simp [exec, execReceiveString, h, stringStep]

theorem exec_receiveString_call {s : State} {c : StringCall} (n : Nat) (h : s.call = some c) :
    exec (.receiveString n) s = stringStep c s := by
  simp [exec, execReceiveString, h]

/-! Pops and reads -/

theorem popResult_of_zero {s : State} (h : s.count = 0) : s.popResult = PopResult.empty := by
  simp [State.popResult, h]

theorem popResult_of_pos {s : State} (h : 0 < s.count) : s.popResult = ⟨true, s.memRead s.tail⟩ := by
  simp [State.popResult, Nat.pos_iff_ne_zero.mp h, PopResult.byte]

theorem memRead_of_read {s : State} {i : Nat} {v : Byte} (h : Memory.read s.storage i = some v) :
    s.memRead i = v := by
  simp [State.memRead, h]

/-- The slot just pushed reads as the byte, every other slot as before. -/
theorem memRead_pushBlock (d : Byte) (s : State) (i : Nat) :
    (s.pushBlock d).memRead i = if i = s.head then d else s.memRead i := by
  simp only [State.memRead, pushBlock_storage, Memory.read_write]
  split <;> simp

/-! receiveString's step -/

/-- All a step of a call can do when it goes on. -/
theorem stringStep_next {c : StringCall} {s t : State} (h : stringStep c s = .next t) :
    (c.phase = .test ∧ t = s.quiet.setCall (some { c with phase := if s.count = 0 then .terminate else .pop })) ∨
    (c.phase = .pop ∧ t = s.popStep.setCall (some { c with phase := .write s.popResult.data })) ∨
    (∃ v, c.phase = .write v ∧ c.n < c.size ∧
      t = (s.dstWrite c.n v).quiet.setCall (some { c with n := c.n + 1, phase := .test })) ∨
    (c.phase = .terminate ∧ c.n < c.size ∧
      t = ((s.dstWrite c.n Config.terminator).quiet.setCall none).handBack (.length c.n)) := by
  unfold stringStep at h
  split at h
  · exact .inl ⟨‹_›, by simpa [stringTest] using h.symm⟩
  · exact .inr (.inl ⟨‹_›, by simpa [stringPop] using h.symm⟩)
  · rename_i v hv
    by_cases hn : c.n < c.size
    · exact .inr (.inr (.inl ⟨v, hv, hn, by simpa [stringWrite, hn] using h.symm⟩))
    · simp [stringWrite, hn] at h
  · by_cases hn : c.n < c.size
    · exact .inr (.inr (.inr ⟨‹_›, hn, by simpa [stringTerminate, hn] using h.symm⟩))
    · simp [stringTerminate, hn] at h

/-- When a step of a call faults, it is the overrun. -/
theorem stringStep_fault {c : StringCall} {s : State} {f : Fault} (h : stringStep c s = .fault f) :
    c.size ≤ c.n ∧ f = .dstOverrun c.n c.size ∧ (c.phase = .terminate ∨ ∃ v, c.phase = .write v) := by
  unfold stringStep at h
  split at h
  · simp [stringTest] at h
  · simp [stringPop] at h
  · rename_i v hv
    by_cases hn : c.n < c.size
    · simp [stringWrite, hn] at h
    · exact ⟨by omega, by simpa [stringWrite, hn] using h.symm, .inr ⟨v, hv⟩⟩
  · by_cases hn : c.n < c.size
    · simp [stringTerminate, hn] at h
    · exact ⟨by omega, by simpa [stringTerminate, hn] using h.symm, .inl ‹_›⟩

/-! `fetch` -/

/-- What a step performs: the foreground's turn with nothing taken, or the first presentation, which need not wait. -/
theorem fetch_cases (s : State) :
    s.fetch = (s.foregroundInstr, s) ∨
    ∃ p rest, s.pending = p :: rest ∧ s.mustWait p = false ∧ s.fetch = (p.instr s, { s with pending := rest }) := by
  unfold State.fetch
  split
  · exact .inl rfl
  · rename_i p rest h
    by_cases hw : s.mustWait p = true
    · exact .inl (by simp [hw])
    · exact .inr ⟨p, rest, h, by simpa using hw, by simp [hw]⟩

/-! Runs -/

theorem runSteps_succ (k : Nat) {s t : State} (h : step s = .next t) : runSteps (k + 1) s = runSteps k t := by
  simp [runSteps, h]

/-- A run of `a + b` steps is a run of `a` steps and then one of `b`. -/
theorem runSteps_add {a : Nat} (b : Nat) {s t : State} (h : runSteps a s = .next t) :
    runSteps (a + b) s = runSteps b t := by
  induction a generalizing s with
  | zero =>
    injection h with h
    subst h
    simp
  | succ a ih =>
    rw [Nat.add_right_comm]
    simp only [runSteps] at h ⊢
    split at h
    · exact ih h
    · cases h
    · cases h

/-- The host's run of the core is this run. -/
theorem run_core (k : Nat) (s : State) : Host.Core.run Sys2Proof.core k s = runSteps k s := by
  induction k generalizing s with
  | zero => rfl
  | succ k ih =>
    have hs : Sys2Proof.core.step s = step s := rfl
    simp only [Host.Core.run, runSteps, hs]
    cases step s with
    | next t => exact ih t
    | fault r => rfl
    | refused r => rfl

/-! The invariant -/

/-- The invariant does not look at the ports, the returned value, the presentations, the orders or the counter. -/
theorem State.Inv.of_eq {s t : State} (h : s.Inv) (hw : t.log2Cap = s.log2Cap) (hst : t.storage = s.storage)
    (hh : t.head = s.head) (ht : t.tail = s.tail) (hc : t.count = s.count) (hd : t.dst = s.dst)
    (hcall : t.call = s.call) : t.Inv := by
  have hcap : t.cap = s.cap := by simp [State.cap, hw]
  exact ⟨by rw [hh, hcap]; exact h.head_lt, by rw [ht, hcap]; exact h.tail_lt, by rw [hc, hcap]; exact h.count_le,
    by rw [hst]; exact h.storage_wf, by rw [hst, hcap]; exact h.storage_lt, by rw [hd]; exact h.dst_wf,
    by intro c hc'; rw [hcall] at hc'; rw [hd]; exact h.call_ok c hc'⟩

theorem pushBlock_inv {s : State} (d : Byte) (h : s.Inv) : (s.pushBlock d).Inv where
  head_lt := succIndex_lt s _
  tail_lt := h.tail_lt
  count_le := by
    have := h.count_le
    simp only [pushBlock_count, pushBlock_cap]
    split <;> omega
  storage_wf := Memory.write_wf _ _ h.storage_wf
  storage_lt := Memory.write_lt _ h.storage_lt h.head_lt
  dst_wf := h.dst_wf
  call_ok := h.call_ok

theorem popBlock_inv {s : State} (h : s.Inv) : s.popBlock.Inv where
  head_lt := h.head_lt
  tail_lt := by
    simp only [popBlock_tail, popBlock_cap]
    split
    · exact h.tail_lt
    · exact succIndex_lt s _
  count_le := le_trans (Nat.sub_le _ _) h.count_le
  storage_wf := h.storage_wf
  storage_lt := h.storage_lt
  dst_wf := h.dst_wf
  call_ok := h.call_ok

theorem resetBlock_inv {s : State} (h : s.Inv) : s.resetBlock.Inv where
  head_lt := cap_pos s
  tail_lt := cap_pos s
  count_le := Nat.zero_le _
  storage_wf := h.storage_wf
  storage_lt := h.storage_lt
  dst_wf := h.dst_wf
  call_ok := h.call_ok

theorem pushPopBlock_inv {s : State} (o : SimulOrder) (d : Byte) (h : s.Inv) : (s.pushPopBlock o d).Inv := by
  cases o
  · exact popBlock_inv (pushBlock_inv d h)
  · exact pushBlock_inv d (popBlock_inv h)

end Sys2Proof.Machine
end

