-- ==== Sys2Proof/Laws/History.lean ====
section
/-! SUPPORT. The buffer's push and pop keep buffer and history together (10_state.md R21, 40_fifo_ops.md R80, R83), and the
steps of a receiveString call on the foreground's turn. -/

namespace Sys2Proof.Machine

/-- Two push numbers less than C apart have different slots. -/
theorem slot_ne {c p k : Nat} (hk : k + 1 < c) (hp : k < p) : (p - 1 - k) % c ≠ p % c := by
  intro h
  have h1 : (p - 1 - k) + (k + 1) ≡ (p - 1 - k) + 0 [MOD c] := by
    show ((p - 1 - k) + (k + 1)) % c = (p - 1 - k) % c
    rw [show (p - 1 - k) + (k + 1) = p by omega]
    exact h.symm
  have h2 : (k + 1) % c = 0 % c := Nat.ModEq.add_left_cancel' _ h1
  rw [Nat.mod_eq_of_lt hk, Nat.zero_mod] at h2
  omega

/-- `Linked` looks only at the buffer. -/
theorem Linked.of_eq {s t : State} {g : Ghost} (h : Linked s g) (hw : t.log2Cap = s.log2Cap)
    (hst : t.storage = s.storage) (hh : t.head = s.head) (ht : t.tail = s.tail) (hc : t.count = s.count) :
    Linked t g := by
  have hcap : t.cap = s.cap := by simp [State.cap, hw]
  exact ⟨by rw [hh, hcap]; exact h.head_eq, by rw [ht, hcap]; exact h.tail_eq, by rw [hc]; exact h.account,
    by rw [hc, hcap]; exact h.count_le, by rw [hcap]; exact h.lost_full, by rw [hcap, hst]; exact h.content⟩

theorem pushBlock_linked {s : State} {g : Ghost} (d : Byte) (h : Linked s g) :
    Linked (s.pushBlock d) (g.push d s) where
  head_eq := by simp [State.succIndex, Ghost.push, h.head_eq, Nat.mod_add_mod]
  tail_eq := h.tail_eq
  account := by
    have := h.account
    have := h.count_le
    simp only [Ghost.push, List.length_cons, pushBlock_count]
    split <;> omega
  count_le := by
    have := h.count_le
    simp only [pushBlock_count, pushBlock_cap]
    split <;> omega
  lost_full := by
    have := h.account
    have := h.count_le
    have := h.lost_full
    simp only [Ghost.push, List.length_cons, pushBlock_cap]
    split <;> omega
  content := by
    intro k b hk hb
    simp only [pushBlock_cap] at hk ⊢
    cases k with
    | zero =>
      simp only [Ghost.push, List.length_cons, List.getElem?_cons_zero, Option.some.injEq] at hb ⊢
      simp [← h.head_eq, hb]
    | succ k =>
      simp only [Ghost.push, List.getElem?_cons_succ] at hb
      have hlt : k < g.pushes.length := (List.getElem?_eq_some_iff.mp hb).1
      simp only [Ghost.push, List.length_cons, pushBlock_storage,
        show g.pushes.length + 1 - 1 - (k + 1) = g.pushes.length - 1 - k by omega]
      rw [Memory.read_write_other _ _ (by rw [h.head_eq]; exact slot_ne hk hlt)]
      exact h.content k b (by omega) hb

theorem popBlock_linked {s : State} {g : Ghost} (h : Linked s g) : Linked s.popBlock (g.pop s) where
  head_eq := h.head_eq
  tail_eq := by
    simp only [popBlock_tail, popBlock_cap, Ghost.pop]
    split
    · exact h.tail_eq
    · simp [State.succIndex, h.tail_eq, Nat.mod_add_mod]
  account := by
    have := h.account
    simp only [Ghost.pop, popBlock_count]
    split <;> omega
  count_le := le_trans (Nat.sub_le _ _) h.count_le
  lost_full := h.lost_full
  content := h.content

/-! A call's steps -/

/-- With nothing presented, the call in progress takes its next step. -/
theorem step_of_nothing {s : State} {c : StringCall} (hp : s.pending = []) (hc : s.call = some c) :
    step s = stringStep c s := by
  simp [step, State.fetch, hp, State.foregroundInstr, hc, exec, execReceiveString]

/-- On the foreground's turn the call in progress takes its next step. -/
theorem step_of_turn {s : State} {rest : List Presented} {c : StringCall} (hp : s.pending = .turn :: rest)
    (hc : s.call = some c) : step s = stringStep c { s with pending := rest } := by
  simp [step, State.fetch, hp, State.mustWait, Presented.instr, State.foregroundInstr, hc, exec, execReceiveString]

end Sys2Proof.Machine
end

