-- ==== Sys2Proof/Laws/PerInstr.lean ====
section
/-! SUPPORT. Statements made for all instructions, one lemma per constructor. -/

namespace Sys2Proof.Laws

/-- A PSEUDO row and its expansion are presented by the same agents, have the same encoding, and the expansion expands no
further (30_encoding.md R51). -/
def Expansion.Statement (i : Instr) : Prop :=
  i.expand.expand = i.expand ∧ encode i.expand = encode i ∧
  i.expand.byProducer = i.byProducer ∧ i.expand.byConsumer = i.byConsumer ∧ i.expand.byHost = i.byHost

theorem Expansion.reset : Expansion.Statement .reset := ⟨rfl, rfl, rfl, rfl, rfl⟩
theorem Expansion.idle : Expansion.Statement .idle := ⟨rfl, rfl, rfl, rfl, rfl⟩
theorem Expansion.push (d : Byte) : Expansion.Statement (.push d) := ⟨rfl, rfl, rfl, rfl, rfl⟩
theorem Expansion.pop : Expansion.Statement .pop := ⟨rfl, rfl, rfl, rfl, rfl⟩
theorem Expansion.pushPop (d : Byte) : Expansion.Statement (.pushPop d) := ⟨rfl, rfl, rfl, rfl, rfl⟩
theorem Expansion.available : Expansion.Statement .available := ⟨rfl, rfl, rfl, rfl, rfl⟩
theorem Expansion.rxEvent (b : Byte) : Expansion.Statement (.rxEvent b) := ⟨rfl, rfl, rfl, rfl, rfl⟩
theorem Expansion.receiveAvailable : Expansion.Statement .receiveAvailable := ⟨rfl, rfl, rfl, rfl, rfl⟩
theorem Expansion.receiveByte : Expansion.Statement .receiveByte := ⟨rfl, rfl, rfl, rfl, rfl⟩
theorem Expansion.receiveString (dstSize : Nat) : Expansion.Statement (.receiveString dstSize) :=
  ⟨rfl, rfl, rfl, rfl, rfl⟩

end Sys2Proof.Laws
end

