-- ==== Sys2Proof/Tests/Slice0.lean ====
section
/-! SUPPORT. The model's own tests: words decoded by hand from 30_encoding.md R53 and R54, vectors of 95_test_vectors.md (the
vector is named at each test), the refusals of the checks, and for each statement with hypotheses a state that meets them.
Every expected value is the spec's. -/

namespace Sys2Proof.Tests

open Sys2Proof Sys2Proof.Machine

/-! Helpers: a small state of capacity 4 and what a test looks at -/

/-- `(head, tail, count, storage)` with `C = 4`, nothing presented. -/
def ring (h t n : Nat) (cells : Memory) : State :=
  { State.resetWith 2 with head := h, tail := t, count := n, storage := cells }

/-- The slots 0, 1, 2, 3. -/
def slots (a b c d : Byte) : Memory := [(0, a), (1, b), (2, c), (3, d)]

/-- The buffer a meaning leaves. -/
def ringOf : Result → Option (Nat × Nat × Nat × Memory)
  | .next t => some (t.head, t.tail, t.count, t.storage)
  | .fault _ => none
  | .refused _ => none

/-- What a meaning hands back. -/
def retOf : Result → Option Ret
  | .next t => some t.ret
  | .fault _ => none
  | .refused _ => none

/-- The destination and the call a meaning leaves. -/
def callOf : Result → Option (Memory × Option StringCall)
  | .next t => some (t.dst, t.call)
  | .fault _ => none
  | .refused _ => none

/-- The meaning goes on. -/
def goesOn : Result → Bool
  | .next _ => true
  | .fault _ => false
  | .refused _ => false

/-- The overrun a meaning ends in. -/
def faultOf : Result → Option Fault
  | .next _ => none
  | .fault f => some f
  | .refused _ => none

/-! The checks refuse ill-formed terms -/

theorem test_wf_refuses_available : Instr.wf .available = false := by decide
theorem test_wf_refuses_rxEvent : Instr.wf (.rxEvent 0x41) = false := by decide
theorem test_wf_refuses_receive :
    Instr.wf .receiveAvailable = false ∧ Instr.wf .receiveByte = false ∧ Instr.wf (.receiveString 4) = false := by decide
theorem test_capacity_refuses : capacityWf 0 = false ∧ capacityWf 3 = false ∧ capacityWf 6 = false := by decide
theorem test_capacity_accepts : capacityWf 1 = true ∧ capacityWf 4 = true := by decide
theorem test_memory_wf_refuses : ¬ Memory.wf [(1, 7), (1, 8)] ∧ ¬ Memory.wf [(2, 7), (1, 8)] := by decide
theorem test_bytes_refused_by_name :
    requestOfBytes [0x41] = .error (.wrongLength 1) ∧ requestOfBytes [0x41, 0x08] = .error .bitAboveRequest := by
  exact ⟨rfl, rfl⟩

/-! Decoding: words written out from `{rst, rd_en, wr_en, wr_data}` -/

theorem test_decode_reset : decode 0b1_1_1_01000001 = .reset := by decide
theorem test_decode_idle : decode 0b0_0_0_10100101 = .idle := by decide
theorem test_decode_push : decode 0b0_0_1_01000001 = .push 0x41 := by decide
theorem test_decode_pop : decode 0b0_1_0_11000011 = .pop := by decide
theorem test_decode_pushPop : decode 0b0_1_1_01111110 = .pushPop 0x7E := by decide
theorem test_decode_table_words :
    decodeTableWord 16 0x141 = some (.push 0x41) ∧ decodeTableWord 16 0x7FF = some .reset ∧
    decodeTableWord 16 0x800 = none := by decide
theorem test_encode_rxEvent : encode (.rxEvent 0x50) = some 0x150 := by decide
theorem test_no_encoding : encode .available = none ∧ encode .receiveAvailable = none ∧ encode (.receiveString 4) = none := by
  decide

/-! The first step after reset, for a word of each REQ row, whatever the capacity -/

theorem test_first_step_after_reset :
    goesOn (step (State.reset.withFetchWord 16 0x400)) = true ∧ goesOn (step (State.reset.withFetchWord 16 0x000)) = true ∧
    goesOn (step (State.reset.withFetchWord 16 0x141)) = true ∧ goesOn (step (State.reset.withFetchWord 16 0x200)) = true ∧
    goesOn (step (State.reset.withFetchWord 16 0x341)) = true := by decide

/-! The operations -/

/-- V7: `0x741` in `(1,0,4,[5,2,3,4])` is a reset only. -/
theorem test_reset_overrides : ringOf (step ((ring 1 0 4 (slots 5 2 3 4)).withFetchWord 16 0x741)) =
    some (0, 0, 0, slots 5 2 3 4) := by decide
/-- V7: `0x0A5` in `(2,1,1,[-,7,-,-])` changes nothing. -/
theorem test_idle : ringOf (step ((ring 2 1 1 [(1, 7)]).withFetchWord 16 0x0A5)) = some (2, 1, 1, [(1, 7)]) := by decide
/-- V1 row 2: `head` wraps and the buffer becomes full. -/
theorem test_push_wraps : ringOf (exec (.push 4) (ring 3 0 3 [(0, 1), (1, 2), (2, 3)])) =
    some (0, 0, 4, slots 1 2 3 4) := by decide
/-- V1 row 5: overflow. -/
theorem test_push_overflow : ringOf (exec (.push 5) (ring 0 0 4 (slots 1 2 3 4))) = some (1, 0, 4, slots 5 2 3 4) := by
  decide
/-- V2 row 2: `tail` wraps. -/
theorem test_pop_wraps : ringOf (exec .pop (ring 1 3 2 [(0, 9), (3, 8)])) = some (1, 0, 1, [(0, 9), (3, 8)]) ∧
    retOf (exec .pop (ring 1 3 2 [(0, 9), (3, 8)])) = some (.popped ⟨true, 8⟩) := by decide
/-- V2 row 4: EMPTY, unchanged. -/
theorem test_pop_empty : ringOf (exec .pop (ring 3 3 0 [(0, 0x41)])) = some (3, 3, 0, [(0, 0x41)]) ∧
    retOf (exec .pop (ring 3 3 0 [(0, 0x41)])) = some (.popped ⟨false, 0xFF⟩) := by decide
/-- V5 row 3, order A. -/
theorem test_pushPop_orderA :
    ringOf (exec (.pushPop 5) { ring 0 0 4 (slots 1 2 3 4) with orders := [.pushFirst] }) = some (1, 1, 3, slots 5 2 3 4) ∧
    retOf (exec (.pushPop 5) { ring 0 0 4 (slots 1 2 3 4) with orders := [.pushFirst] }) = some (.popped ⟨true, 5⟩) := by
  decide
/-- V5 row 3, order B. -/
theorem test_pushPop_orderB :
    ringOf (exec (.pushPop 5) { ring 0 0 4 (slots 1 2 3 4) with orders := [.popFirst] }) = some (1, 1, 4, slots 5 2 3 4) ∧
    retOf (exec (.pushPop 5) { ring 0 0 4 (slots 1 2 3 4) with orders := [.popFirst] }) = some (.popped ⟨true, 1⟩) := by
  decide
/-- V6: a full buffer. -/
theorem test_available : retOf (exec .available (ring 1 0 4 (slots 5 2 3 4))) = some (.occupancy 4) := by decide
/-- R90's example. -/
theorem test_rxEvent : ringOf (exec (.rxEvent 0x50) (ring 0 0 0 [])) = some (1, 0, 1, [(0, 0x50)]) := by decide
/-- V12. -/
theorem test_receiveAvailable : retOf (exec .receiveAvailable (ring 1 0 1 [(0, 0x50)])) = some (.occupancy 1) := by decide
/-- V12. -/
theorem test_receiveByte : retOf (exec .receiveByte (ring 1 0 1 [(0, 0x50)])) = some (.popped ⟨true, 0x50⟩) ∧
    ringOf (exec .receiveByte (ring 1 0 1 [(0, 0x50)])) = some (1, 1, 0, [(0, 0x50)]) := by decide
/-- V11 row 4, the last step: all four pops performed, the terminator at offset 4 of 4 overruns. -/
theorem test_receiveString_overrun : faultOf (step { ring 0 0 0 (slots 1 2 3 4) with
    dst := slots 1 2 3 4, call := some ⟨4, 4, .terminate⟩ }) = some (.dstOverrun 4 4) := by decide
/-- S1, the last step: `"ABC"` and its terminator, length 3. -/
theorem test_receiveString_returns :
    callOf (step { ring 3 3 0 [] with dst := [(0, 0x41), (1, 0x42), (2, 0x43)], call := some ⟨4, 3, .terminate⟩ }) =
      some ([(0, 0x41), (1, 0x42), (2, 0x43), (3, 0x00)], none) ∧
    retOf (step { ring 3 3 0 [] with dst := [(0, 0x41), (1, 0x42), (2, 0x43)], call := some ⟨4, 3, .terminate⟩ }) =
      some (.length 3) := by decide

/-! Ports and the transmit path -/

/-- V14. -/
theorem test_gray : (List.range 8).map (fun i => gray (BitVec.ofNat 3 i)) =
    [0b000, 0b001, 0b011, 0b010, 0b110, 0b111, 0b101, 0b100] := by decide
/-- V13. -/
theorem test_divisor : baudDivisor 16000000 9600 = 103 ∧ baudDivisor 8000000 9600 = 51 ∧ baudDivisor 1843200 9600 = 11 := by
  decide
/-- V15: `"OK"`, one poll answered 0 between the bytes; the zero byte is not sent. -/
theorem test_sendString : sendString [0x4F, 0x4B, 0x00] [true, false, true] = ([0x4F, 0x4B], .returned []) := by decide
/-- V15: the empty string; a transmitter that never reports ready. -/
theorem test_send_edges : sendString [0x00] [] = ([], .returned []) ∧ sendByte 0x41 [false, false] = ([], .waiting) := by
  decide

/-! Witnesses: for each statement with hypotheses, a state that meets them -/

/-- DecodeThenEncodeIsCanonical: two requests of one operation. -/
theorem witness_same_operation : decode 0x2C3 = decode 0x200 := by decide
/-- NoRequestIsIllegal: `wr_en = 0`, `rst = 1`, a full and an empty buffer. -/
theorem witness_ignored_bits : Req.wrEn 0x2C3 = false ∧ Req.rst 0x7FF = true ∧
    (ring 0 0 4 (slots 1 2 3 4)).count = (ring 0 0 4 (slots 1 2 3 4)).cap ∧ (ring 0 0 0 []).count = 0 := by decide
/-- TableWordsAreRequests: the largest request, the smallest number that is none. -/
theorem witness_table_words : (0x7FF : Nat) < 2048 ∧ 2048 ≤ (0x800 : Nat) ∧ (ring 0 0 0 []).call = none := by decide

/-- A state with something presented and a call in progress. -/
def busy (p : List Presented) : State := { ring 1 0 1 [(0, 7)] with pending := p, call := some ⟨4, 0, .test⟩ }

/-- StepPerformsWhatIsPresented: each presentation, with and without a call in progress. -/
theorem witness_presented :
    ({ ring 0 0 0 [] with pending := [.request 0x141] }).pending = Presented.request 0x141 :: [] ∧
    (decode 0x141).byConsumer = false ∧ (ring 0 0 0 []).call = none ∧
    (busy [.op (.rxEvent 1)]).pending = Presented.op (.rxEvent 1) :: [] ∧ (Instr.rxEvent 1).byConsumer = false ∧
    (busy [.turn]).pending = Presented.turn :: [] ∧ (busy [.turn]).call = some ⟨4, 0, .test⟩ ∧
    (busy []).pending = [] ∧ (busy []).call = some ⟨4, 0, .test⟩ ∧ (ring 0 0 0 []).pending = [] ∧
    ({ ring 0 0 0 [] with pending := [.turn] }).pending = Presented.turn :: [] ∧
    (busy [.request 0x200]).pending = Presented.request 0x200 :: [] ∧ (decode 0x200).byConsumer = true ∧
    (busy [.op .receiveByte]).pending = Presented.op .receiveByte :: [] ∧ Instr.receiveByte.byConsumer = true := by
  decide
/-- ResetStateIsEmpty, EachAgentWritesOnlyItsFields: a state that steps. -/
theorem witness_step : ∃ t, step (State.resetWith 2) = .next t ∧ (State.resetWith 2).fetch.1 ≠ .reset :=
  ⟨_, rfl, by decide⟩
theorem witness_exec : ∃ t, exec (.push 1) (ring 0 0 4 (slots 1 2 3 4)) = .next t ∧
    (ring 0 0 4 (slots 1 2 3 4)).count ≤ (ring 0 0 4 (slots 1 2 3 4)).cap := ⟨_, rfl, by decide⟩
theorem witness_exec_pop : ∃ t, exec .pop (ring 0 0 0 []) = .next t ∧ Instr.pop.byProducer = false ∧
    Instr.pop.byHost = false ∧ (Instr.push 1).byConsumer = false ∧ (Instr.push 1).byHost = false :=
  ⟨_, rfl, by decide⟩
/-- PushStoresAtHead: room, and none. -/
theorem witness_push : (ring 3 0 3 []).count < (ring 3 0 3 []).cap ∧
    (ring 0 0 4 []).cap ≤ (ring 0 0 4 []).count := by decide
/-- PushOnFullOverwrites, NoHalfDonePopIsSeen, PushPopTable at `n = C`, with `head = tail`. -/
theorem witness_full : (ring 0 0 4 (slots 1 2 3 4)).count = (ring 0 0 4 (slots 1 2 3 4)).cap ∧
    (ring 0 0 4 (slots 1 2 3 4)).head = (ring 0 0 4 (slots 1 2 3 4)).tail ∧
    (5 : Byte) ≠ (ring 0 0 4 (slots 1 2 3 4)).memRead (ring 0 0 4 (slots 1 2 3 4)).tail := by decide
theorem witness_half_done : (5 : Byte) ≠ State.memRead { ring 0 0 4 (slots 1 2 3 4) with orders := [.popFirst] } 0 ∧ ∃ t, exec (.pushPop 5) { ring 0 0 4 (slots 1 2 3 4) with orders := [.popFirst] } = .next t ∧
    t.rsp = ⟨true, State.memRead { ring 0 0 4 (slots 1 2 3 4) with orders := [.popFirst] } 0⟩ := ⟨by decide, _, rfl, rfl⟩
/-- PopReturnsTailSlot, PopOnEmptyReturnsSentinel: the last byte, and none. -/
theorem witness_pop : 0 < (ring 1 0 1 [(0, 7)]).count ∧ Memory.read (ring 1 0 1 [(0, 7)]).storage 0 = some 7 ∧
    (ring 1 1 0 [(0, 7)]).count = 0 := by decide
/-- PushPopIsOneOfTheTwoOrders, PushPopTable: both orders. -/
theorem witness_orders : State.order { ring 0 0 0 [] with orders := [.pushFirst] } = .pushFirst ∧
    State.order { ring 0 0 0 [] with orders := [.popFirst] } = .popFirst ∧ (ring 0 0 0 []).count = 0 := by decide
/-- PushPopTable between empty and full: `head` apart from `tail`, and equal to it (after an overflow), in both orders. -/
theorem witness_between : (ring 1 0 1 [(0, 7)]).count ≤ (ring 1 0 1 [(0, 7)]).cap ∧ 0 < (ring 1 0 1 [(0, 7)]).count ∧
    (ring 0 0 2 (slots 1 2 3 4)).count < (ring 0 0 2 (slots 1 2 3 4)).cap ∧ 0 < (ring 0 0 2 (slots 1 2 3 4)).count ∧
    State.order { ring 0 0 2 (slots 1 2 3 4) with orders := [.pushFirst] } = .pushFirst ∧
    State.order { ring 0 0 2 (slots 1 2 3 4) with orders := [.popFirst] } = .popFirst := by decide
/-- AvailableIsALowerBound. -/
theorem witness_available : ∃ t, exec .available (ring 0 0 4 (slots 1 2 3 4)) = .next t ∧
    (ring 0 0 4 (slots 1 2 3 4)).count = (ring 0 0 4 (slots 1 2 3 4)).cap := ⟨_, rfl, by decide⟩

/-- A state in the middle of a call. -/
def calling (n : Nat) (p : Phase) : State := { ring 1 0 1 [(0, 7)] with call := some ⟨2, n, p⟩ }

/-- ReceiveStringTakesTheLoopsSteps, OverrunIsTheOnlyFault, LoopPopFindsAByte: each phase, inside and just outside. -/
theorem witness_phases :
    (calling 0 .test).call = some ⟨2, 0, .test⟩ ∧ (calling 0 .pop).call = some ⟨2, 0, .pop⟩ ∧
    0 < (calling 0 .pop).count ∧ (calling 1 (.write 7)).call = some ⟨2, 1, .write 7⟩ ∧ 1 < 2 ∧
    (calling 1 .terminate).call = some ⟨2, 1, .terminate⟩ ∧ (calling 2 (.write 7)).call = some ⟨2, 2, .write 7⟩ ∧
    (calling 2 .terminate).call = some ⟨2, 2, .terminate⟩ := by decide
theorem witness_popReady : (calling 0 .pop).PopReady := by
  intro c _ _
  decide
theorem witness_pop_step : ∃ t, step (calling 0 .pop) = .next t ∧ (calling 0 .pop).fetch.1 ≠ .reset := ⟨_, rfl, by decide⟩
/-- LoopPopAfterALateReset: a call at its pop, with a byte and after the reset took it. -/
theorem witness_late_reset : (calling 0 .pop).call = some ⟨2, 0, .pop⟩ ∧
    State.call { calling 0 .pop with head := 0, count := 0 } = some ⟨2, 0, .pop⟩ ∧
    State.count { calling 0 .pop with head := 0, count := 0 } = 0 := by decide
theorem witness_overrun : exec (.receiveString 2) (calling 2 .terminate) = .fault (.dstOverrun 2 2) := rfl
/-- ReceiveStringBeginsWithTheTest: an empty buffer and one byte. -/
theorem witness_begin : (ring 0 0 0 []).call = none ∧ (ring 1 0 1 [(0, 7)]).call = none := by decide

/-- A state in which receiveString is presented and the invariant holds. -/
theorem ring_inv (p : List Presented) : State.Inv { ring 1 0 1 [(0, 7)] with pending := p } where
  head_lt := (by decide : 1 < 2 ^ 2)
  tail_lt := (by decide : 0 < 2 ^ 2)
  count_le := (by decide : 1 ≤ 2 ^ 2)
  storage_wf := (by decide : Memory.wf [(0, 7)])
  storage_lt := (by decide : ∀ x ∈ ([(0, 7)] : Memory), x.1 < 2 ^ 2)
  dst_wf := (by decide : Memory.wf [])
  call_ok := by
    intro c h
    simp [ring, State.resetWith] at h

/-- ReceiveStringDrainsTheBuffer: one byte and a destination of two. -/
theorem witness_drain : State.Inv { ring 1 0 1 [(0, 7)] with pending := [.op (.receiveString 2)] } ∧
    (ring 1 0 1 [(0, 7)]).call = none ∧ (ring 1 0 1 [(0, 7)]).count < 2 := ⟨ring_inv _, by decide⟩
/-- StepKeepsInv. -/
theorem witness_inv_step : ∃ s t : State, s.Inv ∧ step s = .next t := ⟨_, _, ring_inv [.op (.receiveString 2)], rfl⟩
/-- ReceiveStringOverrunsASmallDestination: room for the byte and not for the terminator; room for neither. -/
theorem witness_small : State.Inv { ring 1 0 1 [(0, 7)] with pending := [.op (.receiveString 1)] } ∧
    State.Inv { ring 1 0 1 [(0, 7)] with pending := [.op (.receiveString 0)] } ∧ 1 ≤ (ring 1 0 1 [(0, 7)]).count :=
  ⟨ring_inv _, ring_inv _, by decide⟩
/-- ReceiveStringNeedNotReturn, up to the last free place of the destination. -/
theorem witness_starve : (busy (starve 9 4)).call = some ⟨4, 0, .test⟩ ∧ 0 + 4 ≤ 4 ∧ (busy (starve 9 4)).pending = starve 9 4 := by
  decide

/-- One push from reset at capacity 4. -/
theorem reachable_one : ∃ s g, Reachable s g ∧ g.lost = 0 ∧ g.lost % s.cap = 0 ∧ 0 < s.count ∧ s.count < s.cap :=
  ⟨_, _, .step (.present [.op (.push 7)] [] (.reset 2)) rfl, by decide⟩
/-- One push from reset at capacity 1: C bytes have been pushed and the buffer is full. -/
theorem reachable_full : ∃ s g, Reachable s g ∧ s.cap ≤ g.pushes.length ∧ 0 < s.count ∧ s.count = s.cap ∧ g.lost = 0 :=
  ⟨_, _, .step (.present [.op (.push 7)] [] (.reset 0)) rfl, by decide⟩
/-- Two pushes from reset at capacity 1: an overflow. -/
theorem reachable_overflow : ∃ s g, Reachable s g ∧ s.cap ≤ g.pushes.length ∧ 0 < s.count ∧ g.lost = 1 :=
  ⟨_, _, .step (.step (.present [.op (.push 7), .op (.push 8)] [] (.reset 0)) rfl) rfl, by decide⟩
/-- ReceivedTextComesBack: three bytes presented at capacity 4, and receiveString with room for the terminator. -/
theorem witness_text : ∃ s g, Reachable s g ∧ g.lost % s.cap = 0 ∧ s.count = 0 ∧ s.call = none ∧
    s.pending = ([0x50, 0x49, 0x4E] : List Byte).map (fun b => Presented.op (.rxEvent b)) ++ [.op (.receiveString 4)] ∧
    3 ≤ s.cap :=
  ⟨_, _, .present (([0x50, 0x49, 0x4E] : List Byte).map (fun b => Presented.op (.rxEvent b)) ++ [.op (.receiveString 4)]) []
    (.reset 2), by decide⟩
/-- StepKeepsHistoryLinked: the reset state and its history. -/
theorem witness_linked : ∃ t, step (State.resetWith 2) = .next t ∧ Linked (State.resetWith 2) Ghost.zero :=
  ⟨_, rfl, by decide, by decide, by decide, by decide, by decide, by intro k b _ h; simp [Ghost.zero] at h⟩
/-- FifoExactlyWhenAligned, ShiftedBufferReturnsStaleBytes: P2's state after step 11, and an aligned empty buffer. -/
theorem witness_shifted : (ring 1 0 0 (slots 5 2 3 4)).head < (ring 1 0 0 (slots 5 2 3 4)).cap ∧
    (ring 1 0 0 (slots 5 2 3 4)).tail < (ring 1 0 0 (slots 5 2 3 4)).cap ∧ (ring 1 0 0 (slots 5 2 3 4)).count = 0 ∧
    (ring 1 0 0 (slots 5 2 3 4)).head ≠ (ring 1 0 0 (slots 5 2 3 4)).tail ∧ (ring 3 3 0 []).head = (ring 3 3 0 []).tail := by
  decide
/-- OverflowKeepsTheLastBytesInSlotOrder: V3, `k = 1` and `k = 0`. -/
theorem witness_overflow : ([1, 2, 3, 4, 5] : List Byte).length = 2 ^ 2 + 1 ∧ ([1, 2, 3, 4] : List Byte).length = 2 ^ 2 + 0 := by
  decide
/-- FlagsFollowCount, CountPortShowsCount: a full buffer, whose count needs the port's top bit. -/
theorem witness_count_port : (ring 0 0 4 []).count ≤ (ring 0 0 4 []).cap ∧ (ring 0 0 4 []).log2Cap + 1 ≤ 3 := by decide
/-- SendStringSendsUpToTheTerminator, DivisorTruncates. -/
theorem witness_transmit : (0x00 : Byte) ∉ ([0x4F, 0x4B] : List Byte) ∧
    sendString ([0x4F, 0x4B] ++ 0x00 :: []) [true, true] = ([0x4F, 0x4B], .returned []) ∧
    0 < 9600 ∧ 104 * (16 * 9600) ≤ 16000000 ∧ 16000000 < (104 + 1) * (16 * 9600) := by decide

end Sys2Proof.Tests
end

section
/-! The state's family of statements (10_state.md): the invariant, the history, who writes what, the flags and the capacity.
First the facts the statements share: what `fetch` leaves alone, and what each operation does to the buffer and to the
history, said once (`BufferEffect`, `exec_effect`). -/

namespace Sys2Proof.Machine

/-! ### `fetch` takes a presentation and nothing else -/

theorem fetch_snd_eq (s : State) : ∃ p, s.fetch.2 = { s with pending := p } := by
  rcases fetch_cases s with h | ⟨p, rest, -, -, h⟩
  · exact ⟨s.pending, by rw [h]⟩
  · exact ⟨rest, by rw [h]⟩

theorem fetch_snd_log2Cap (s : State) : s.fetch.2.log2Cap = s.log2Cap := by
  obtain ⟨p, hp⟩ := fetch_snd_eq s
  rw [hp]

theorem fetch_snd_inv {s : State} (h : s.Inv) : s.fetch.2.Inv := by
  obtain ⟨p, hp⟩ := fetch_snd_eq s
  rw [hp]
  exact h.of_eq rfl rfl rfl rfl rfl rfl rfl

theorem fetch_snd_linked {s : State} {g : Ghost} (h : Linked s g) : Linked s.fetch.2 g := by
  obtain ⟨p, hp⟩ := fetch_snd_eq s
  rw [hp]
  exact h.of_eq rfl rfl rfl rfl rfl

/-! ### The buffer as it was -/

theorem State.SameBuffer.cap {s t : State} (h : s.SameBuffer t) : t.cap = s.cap := by
  simp [State.cap, h.log2Cap]

/-- `Linked` looks only at the bytes read from the buffer. -/
theorem Linked.of_sameBuffer {s t : State} {g : Ghost} (h : Linked s g) (hst : s.SameBuffer t) : Linked t g where
  head_eq := by rw [hst.head, hst.cap]; exact h.head_eq
  tail_eq := by rw [hst.tail, hst.cap]; exact h.tail_eq
  account := by rw [hst.count]; exact h.account
  count_le := by rw [hst.count, hst.cap]; exact h.count_le
  lost_full := by rw [hst.cap]; exact h.lost_full
  content := by
    intro k b hk hb
    rw [hst.cap] at hk ⊢
    rw [hst.storage]
    exact h.content k b hk hb

/-! ### What an operation does to the buffer and to the history -/

/-- From the buffer of `s` with the history `g`, the operation `i` leaves the buffer of `b` with the history `g'`. The cases
are the buffer's own operations (R70 to R76), with the agents that take part in them (R6). -/
inductive BufferEffect (s : State) (g : Ghost) : Instr → State → Ghost → Prop where
  | reset : BufferEffect s g .reset s.resetBlock Ghost.zero
  | keep {i : Instr} (host : i.byHost = false) : BufferEffect s g i s g
  | push {i : Instr} (d : Byte) (producer : i.byProducer = true) (consumer : i.byConsumer = false)
      (host : i.byHost = false) : BufferEffect s g i (s.pushBlock d) (g.push d s)
  | pop {i : Instr} (producer : i.byProducer = false) (consumer : i.byConsumer = true)
      (host : i.byHost = false) : BufferEffect s g i s.popBlock (g.pop s)
  | pushThenPop (d : Byte) : BufferEffect s g (.pushPop d) (s.pushBlock d).popBlock ((g.push d s).pop (s.pushBlock d))
  | popThenPush (d : Byte) : BufferEffect s g (.pushPop d) (s.popBlock.pushBlock d) ((g.pop s).push d s.popBlock)

theorem pushPop_effect (d : Byte) (s : State) (g : Ghost) :
    BufferEffect s g (.pushPop d) (s.pushPopBlock s.order d) (g.next (.pushPop d) s) := by
  cases ho : s.order
  · simp only [Ghost.next, ho]
    exact .pushThenPop d
  · simp only [Ghost.next, ho]
    exact .popThenPush d

/-- A receiveString step counts as a pop exactly at the loop's pop (R96). -/
theorem Ghost.next_receiveString_pop {s : State} {c : StringCall} (n : Nat) (g : Ghost) (hc : s.call = some c)
    (hp : c.phase = .pop) : g.next (.receiveString n) s = g.pop s := by
  obtain ⟨size, k, phase⟩ := c
  subst hp
  simp only [Ghost.next, hc]

theorem Ghost.next_receiveString_other {s : State} (n : Nat) (g : Ghost)
    (h : ∀ c, s.call = some c → c.phase ≠ .pop) : g.next (.receiveString n) s = g := by
  simp only [Ghost.next]
  split
  · next hc => exact absurd rfl (h _ hc)
  · rfl

/-- A step of a call pops the buffer at the loop's pop and leaves it alone elsewhere (R96). -/
theorem stringStep_buffer {c : StringCall} {s t : State} (h : stringStep c s = .next t) :
    (c.phase = .pop ∧ s.popBlock.SameBuffer t) ∨ (c.phase ≠ .pop ∧ s.SameBuffer t) := by
  rcases stringStep_next h with ⟨hp, rfl⟩ | ⟨hp, rfl⟩ | ⟨v, hp, -, rfl⟩ | ⟨hp, -, rfl⟩
  · exact .inr ⟨by simp [hp], rfl, fun _ => rfl, rfl, rfl, rfl⟩
  · exact .inl ⟨hp, rfl, fun _ => rfl, rfl, rfl, rfl⟩
  · exact .inr ⟨by simp [hp], rfl, fun _ => rfl, rfl, rfl, rfl⟩
  · exact .inr ⟨by simp [hp], rfl, fun _ => rfl, rfl, rfl, rfl⟩

theorem receiveString_effect {n : Nat} {s t : State} (g : Ghost) (h : exec (.receiveString n) s = .next t) :
    ∃ b, BufferEffect s g (.receiveString n) b (g.next (.receiveString n) s) ∧ b.SameBuffer t := by
  cases hc : s.call with
  | none =>
    rw [exec_receiveString_begin n hc] at h
    cases h
    rw [Ghost.next_receiveString_other n g (by simp [hc])]
    exact ⟨s, .keep rfl, rfl, fun _ => rfl, rfl, rfl, rfl⟩
  | some c =>
    rw [exec_receiveString_call n hc] at h
    rcases stringStep_buffer h with ⟨hp, hb⟩ | ⟨hp, hb⟩
    · rw [Ghost.next_receiveString_pop n g hc hp]
      exact ⟨_, .pop rfl rfl rfl, hb⟩
    · rw [Ghost.next_receiveString_other n g (by simpa [hc] using hp)]
      exact ⟨_, .keep rfl, hb⟩

/-- Every operation that goes on has one of the effects of `BufferEffect`, and the history goes with it. -/
theorem exec_effect {i : Instr} {s t : State} (g : Ghost) (h : exec i s = .next t) :
    ∃ b, BufferEffect s g i b (g.next i s) ∧ b.SameBuffer t := by
  cases i with
  | reset => cases h; exact ⟨_, .reset, rfl, fun _ => rfl, rfl, rfl, rfl⟩
  | idle | available | receiveAvailable => cases h; exact ⟨_, .keep rfl, rfl, fun _ => rfl, rfl, rfl, rfl⟩
  | push d | rxEvent d => cases h; exact ⟨_, .push d rfl rfl rfl, rfl, fun _ => rfl, rfl, rfl, rfl⟩
  | pop | receiveByte => cases h; exact ⟨_, .pop rfl rfl rfl, rfl, fun _ => rfl, rfl, rfl, rfl⟩
  | pushPop d => cases h; exact ⟨_, pushPop_effect d s g, rfl, fun _ => rfl, rfl, rfl, rfl⟩
  | receiveString n => exact receiveString_effect g h

/-! ### O33: the invariant -/

/-- The buffer's part of the invariant together with a new destination and call. -/
theorem State.Inv.with_call {s t : State} (h : s.Inv) (hw : t.log2Cap = s.log2Cap) (hst : t.storage = s.storage)
    (hh : t.head = s.head) (ht : t.tail = s.tail) (hc : t.count = s.count) (hd : Memory.wf t.dst)
    (hcall : t.CallOk) : t.Inv := by
  have hcap : t.cap = s.cap := by simp [State.cap, hw]
  exact ⟨by rw [hh, hcap]; exact h.head_lt, by rw [ht, hcap]; exact h.tail_lt, by rw [hc, hcap]; exact h.count_le,
    by rw [hst]; exact h.storage_wf, by rw [hst, hcap]; exact h.storage_lt, hd, hcall⟩

/-- A memory written exactly below `n` is, after the write at `n`, written exactly below `n + 1`. -/
theorem Memory.isSome_read_write_end {m : Memory} {n : Nat} (v : Byte)
    (h : ∀ k, (Memory.read m k).isSome = true ↔ k < n) (k : Nat) :
    (Memory.read (Memory.write m n v) k).isSome = true ↔ k < n + 1 := by
  rw [Memory.read_write]
  split
  · simp; omega
  · rw [h k]; omega

theorem beginString_inv {s : State} (n : Nat) (h : s.Inv) : (s.beginString n).Inv :=
  h.with_call rfl rfl rfl rfl rfl List.Pairwise.nil fun c hc => by
    cases hc
    exact ⟨Nat.zero_le n, by simp⟩

theorem stringStep_inv {c : StringCall} {s t : State} (h : s.Inv) (hc : s.call = some c)
    (ht : stringStep c s = .next t) : t.Inv := by
  obtain ⟨hn, hdst⟩ := h.call_ok c hc
  rcases stringStep_next ht with ⟨-, rfl⟩ | ⟨-, rfl⟩ | ⟨v, -, hlt, rfl⟩ | ⟨-, -, rfl⟩
  · refine h.with_call rfl rfl rfl rfl rfl h.dst_wf fun c' hc' => ?_
    cases hc'
    exact ⟨hn, hdst⟩
  · refine (popBlock_inv h).with_call rfl rfl rfl rfl rfl h.dst_wf fun c' hc' => ?_
    cases hc'
    exact ⟨hn, hdst⟩
  · refine h.with_call rfl rfl rfl rfl rfl (Memory.write_wf _ _ h.dst_wf) fun c' hc' => ?_
    cases hc'
    exact ⟨hlt, Memory.isSome_read_write_end v hdst⟩
  · refine h.with_call rfl rfl rfl rfl rfl (Memory.write_wf _ _ h.dst_wf) fun c' hc' => ?_
    cases hc'

theorem exec_inv {i : Instr} {s t : State} (h : s.Inv) (ht : exec i s = .next t) : t.Inv := by
  cases i with
  | reset => cases ht; exact (resetBlock_inv h).of_eq rfl rfl rfl rfl rfl rfl rfl
  | idle | available | receiveAvailable => cases ht; exact h.of_eq rfl rfl rfl rfl rfl rfl rfl
  | push d | rxEvent d => cases ht; exact (pushBlock_inv d h).of_eq rfl rfl rfl rfl rfl rfl rfl
  | pop | receiveByte => cases ht; exact (popBlock_inv h).of_eq rfl rfl rfl rfl rfl rfl rfl
  | pushPop d => cases ht; exact (pushPopBlock_inv s.order d h).of_eq rfl rfl rfl rfl rfl rfl rfl
  | receiveString n =>
    cases hc : s.call with
    | none =>
      rw [exec_receiveString_begin n hc] at ht
      exact stringStep_inv (beginString_inv n h) (beginString_call n s) ht
    | some c =>
      rw [exec_receiveString_call n hc] at ht
      exact stringStep_inv h hc ht

/-- Settles O33: the fetch takes a presentation only, and every operation keeps the invariant. -/
theorem stepKeepsInv : Obligations.StepKeepsInv := by
  intro s t h ht
  exact exec_inv (fetch_snd_inv h) ht

/-! ### O37: buffer and history -/

theorem resetBlock_linked (s : State) : Linked s.resetBlock Ghost.zero where
  head_eq := by simp [Ghost.zero]
  tail_eq := by simp [Ghost.zero]
  account := by simp [Ghost.zero]
  count_le := Nat.zero_le _
  lost_full := .inl rfl
  content := by simp [Ghost.zero]

theorem BufferEffect.linked {s b : State} {g g' : Ghost} {i : Instr} (he : BufferEffect s g i b g')
    (h : Linked s g) : Linked b g' := by
  cases he with
  | reset => exact resetBlock_linked s
  | keep => exact h
  | push d => exact pushBlock_linked d h
  | pop => exact popBlock_linked h
  | pushThenPop d => exact popBlock_linked (pushBlock_linked d h)
  | popThenPush d => exact pushBlock_linked d (popBlock_linked h)

theorem exec_linked {i : Instr} {s t : State} {g : Ghost} (h : Linked s g) (ht : exec i s = .next t) :
    Linked t (g.next i s) := by
  obtain ⟨b, he, hb⟩ := exec_effect g ht
  exact (he.linked h).of_sameBuffer hb

/-- Settles O37: every effect an operation can have on the buffer keeps buffer and history linked. -/
theorem stepKeepsHistoryLinked : Obligations.StepKeepsHistoryLinked := by
  intro s t g h ht
  exact exec_linked (fetch_snd_linked h) ht

/-! ### O30 and O8: who writes what -/

section
variable {s b : State} {g g' : Ghost} {i : Instr}

theorem BufferEffect.log2Cap (he : BufferEffect s g i b g') : b.log2Cap = s.log2Cap := by
  cases he <;> rfl

theorem BufferEffect.storage_of_not_producer (he : BufferEffect s g i b g') (hp : i.byProducer = false) :
    b.storage = s.storage := by
  cases he with
  | reset | keep | pop => rfl
  | push d producer => simp [producer] at hp
  | pushThenPop | popThenPush => cases hp

theorem BufferEffect.read_other (he : BufferEffect s g i b g') {a : Nat} (ha : a ≠ s.head) :
    Memory.read b.storage a = Memory.read s.storage a := by
  cases he with
  | reset | keep | pop => rfl
  | push d | pushThenPop d | popThenPush d => exact Memory.read_write_other _ d ha

theorem BufferEffect.zero_of_host (he : BufferEffect s g i b g') (hh : i.byHost = true) :
    b.head = 0 ∧ b.tail = 0 ∧ b.count = 0 := by
  cases he with
  | reset => exact ⟨rfl, rfl, rfl⟩
  | keep host | push _ _ _ host | pop _ _ host => simp [host] at hh
  | pushThenPop | popThenPush => cases hh

theorem BufferEffect.head_of_not_producer (he : BufferEffect s g i b g') (hp : i.byProducer = false)
    (hh : i.byHost = false) : b.head = s.head := by
  cases he with
  | reset => cases hh
  | keep | pop => rfl
  | push d producer => simp [producer] at hp
  | pushThenPop | popThenPush => cases hp

theorem BufferEffect.tail_of_not_consumer (he : BufferEffect s g i b g') (hc : i.byConsumer = false)
    (hh : i.byHost = false) : b.tail = s.tail := by
  cases he with
  | reset => cases hh
  | keep | push => rfl
  | pop _ consumer => simp [consumer] at hc
  | pushThenPop | popThenPush => cases hc

theorem BufferEffect.le_count_of_not_consumer (he : BufferEffect s g i b g') (hc : i.byConsumer = false)
    (hh : i.byHost = false) (hs : s.count ≤ s.cap) : s.count ≤ b.count := by
  cases he with
  | reset => cases hh
  | keep => exact le_rfl
  | push =>
    rw [pushBlock_count]
    split <;> omega
  | pop _ consumer => simp [consumer] at hc
  | pushThenPop | popThenPush => cases hc

theorem BufferEffect.count_le_of_not_producer (he : BufferEffect s g i b g') (hp : i.byProducer = false) :
    b.count ≤ s.count := by
  cases he with
  | reset => exact Nat.zero_le _
  | keep => exact le_rfl
  | push d producer => simp [producer] at hp
  | pop => exact Nat.sub_le _ _
  | pushThenPop | popThenPush => cases hp

end

theorem exec_log2Cap {i : Instr} {s t : State} (h : exec i s = .next t) : t.log2Cap = s.log2Cap := by
  obtain ⟨b, he, hb⟩ := exec_effect Ghost.zero h
  exact hb.log2Cap.trans he.log2Cap

theorem exec_sameBuffer_of_reads {i : Instr} {s t : State} (hi : i = .available ∨ i = .receiveAvailable ∨ i = .idle)
    (h : exec i s = .next t) : s.SameBuffer t := by
  rcases hi with rfl | rfl | rfl <;> cases h <;> exact ⟨rfl, fun _ => rfl, rfl, rfl, rfl⟩

theorem exec_sameConsumer {i : Instr} {s t : State} (hi : i.byConsumer = false) (h : exec i s = .next t) :
    s.SameConsumer t := by
  cases i with
  | reset | idle | push d | rxEvent d => cases h; exact ⟨rfl, fun _ => rfl, rfl⟩
  | pop | pushPop d | available | receiveAvailable | receiveByte | receiveString n => cases hi

/-- Settles O30: each clause read off the operation's effect on the buffer. -/
theorem eachAgentWritesOnlyItsFields : Obligations.EachAgentWritesOnlyItsFields := by
  intro i s t hs h
  obtain ⟨b, he, hb⟩ := exec_effect Ghost.zero h
  refine ⟨fun hp a => ?_, fun a ha => ?_, fun hh => ?_, fun hp hh => ?_, fun hc hh => ?_, fun hc hh => ?_,
    fun hp => ?_, fun hi => exec_sameBuffer_of_reads hi h, fun hc => exec_sameConsumer hc h, exec_log2Cap h⟩
  · rw [hb.storage, he.storage_of_not_producer hp]
  · rw [hb.storage, he.read_other ha]
  · rw [hb.head, hb.tail, hb.count]
    exact he.zero_of_host hh
  · rw [hb.head, he.head_of_not_producer hp hh]
  · rw [hb.tail, he.tail_of_not_consumer hc hh]
  · rw [hb.count]
    exact he.le_count_of_not_consumer hc hh hs
  · rw [hb.count]
    exact he.count_le_of_not_producer hp

theorem step_log2Cap {s t : State} (h : step s = .next t) : t.log2Cap = s.log2Cap :=
  (exec_log2Cap h).trans (fetch_snd_log2Cap s)

/-! ### O34, O35, O38: every reachable state -/

/-- The reset leaves the state after reset as it is. -/
theorem resetWith_linked (w : Nat) : Linked (State.resetWith w) Ghost.zero :=
  resetBlock_linked (State.resetWith w)

theorem Reachable.linked {s : State} {g : Ghost} (h : Reachable s g) : Linked s g := by
  induction h with
  | reset w => exact resetWith_linked w
  | present p o _ ih => exact ih.of_eq rfl rfl rfl rfl rfl
  | step _ ht ih => exact exec_linked (fetch_snd_linked ih) ht

/-- Settles O34: the indices are remainders mod C, and `count <= C` is a part of `Linked`. -/
theorem rangesAlwaysHold : Obligations.RangesAlwaysHold := by
  intro s g h
  have hl := h.linked
  refine ⟨?_, ?_, hl.count_le⟩
  · rw [hl.head_eq]
    exact Nat.mod_lt _ (cap_pos s)
  · rw [hl.tail_eq]
    exact Nat.mod_lt _ (cap_pos s)

/-- R21, from `head = P mod C`, `tail = Q mod C` and `P = count + L + Q`. -/
theorem Linked.pointer_relation {s : State} {g : Ghost} (h : Linked s g) :
    s.head = (s.tail + s.count + g.lost) % s.cap := by
  calc s.head = g.pushes.length % s.cap := h.head_eq
    _ = (g.popped + (s.count + g.lost)) % s.cap := by rw [h.account, Nat.add_comm]
    _ = (g.popped % s.cap + (s.count + g.lost)) % s.cap := (Nat.mod_add_mod _ _ _).symm
    _ = (s.tail + s.count + g.lost) % s.cap := by rw [← h.tail_eq, Nat.add_assoc]

/-- Settles O35: the general relation, and its case `L = 0`. -/
theorem pointerRelation : Obligations.PointerRelation := by
  intro s g h
  have hp := h.linked.pointer_relation
  exact ⟨hp, fun h0 => by simpa [h0] using hp⟩

/-- Slot `tail` holds the pushed byte whose push number is the last one that is `Q` mod C: the `k`-th last one for
`k = (count + L - 1) mod C`. -/
theorem Linked.read_tail {s : State} {g : Ghost} (h : Linked s g) (hc : 0 < s.count) :
    ∃ v, v ∈ g.pushes ∧ Memory.read s.storage s.tail = some v := by
  have hacc := h.account
  have hdiv := Nat.div_add_mod (s.count + g.lost - 1) s.cap
  have hle := Nat.mod_le (s.count + g.lost - 1) s.cap
  have hk : (s.count + g.lost - 1) % s.cap < g.pushes.length := by omega
  have hslot : g.pushes.length - 1 - (s.count + g.lost - 1) % s.cap =
      g.popped + s.cap * ((s.count + g.lost - 1) / s.cap) := by omega
  have hread := h.content _ _ (Nat.mod_lt _ (cap_pos s)) (List.getElem?_eq_getElem hk)
  rw [hslot, Nat.add_mul_mod_self_left, ← h.tail_eq] at hread
  exact ⟨_, List.getElem_mem hk, hread⟩

/-- Settles O38: slot `tail` holds a pushed byte, and the pop returns what that slot holds. -/
theorem popsReturnOnlyPushedBytes : Obligations.PopsReturnOnlyPushedBytes := by
  intro s g h hc
  obtain ⟨v, hv, hread⟩ := h.linked.read_tail hc
  exact ⟨v, hread, hv, by rw [popResult_of_pos hc, memRead_of_read hread]⟩

/-! ### O48: the capacities -/

theorem exists_cap_eq_iff (c : Nat) : (∃ s : State, s.cap = c) ↔ c.isPowerOfTwo := by
  constructor
  · rintro ⟨s, rfl⟩
    exact ⟨s.log2Cap, rfl⟩
  · rintro ⟨w, rfl⟩
    exact ⟨State.resetWith w, resetWith_cap w⟩

/-- Settles O48: for a number that is not 0 the bit test is that of a power of two. -/
theorem capacitiesArePowersOfTwo : Obligations.CapacitiesArePowersOfTwo := by
  intro c
  rw [exists_cap_eq_iff]
  by_cases hc : c = 0
  · subst hc
    have h0 : ¬ Nat.isPowerOfTwo 0 := fun h => (Nat.pos_of_isPowerOfTwo h).false
    simp [capacityWf, h0]
  · simp [capacityWf, hc, Nat.and_sub_one_eq_zero_iff_isPowerOfTwo hc]

/-! ### O8, O32, O44: the reset state and the flags -/

theorem empty_iff (s : State) : s.empty = true ↔ s.count = 0 := by simp [State.empty]

theorem full_iff (s : State) : s.full = true ↔ s.count = s.cap := by simp [State.full]

@[simp] theorem resetWith_empty (w : Nat) : (State.resetWith w).empty = true := (empty_iff _).mpr rfl

@[simp] theorem resetWith_full (w : Nat) : (State.resetWith w).full = false :=
  Bool.eq_false_iff.mpr fun h => (cap_pos (State.resetWith w)).ne ((full_iff _).mp h)

/-- Settles O8: the reset values, and the capacity that every step keeps. -/
theorem resetStateIsEmpty : Obligations.ResetStateIsEmpty :=
  ⟨fun w => ⟨rfl, rfl, rfl, resetWith_empty w, resetWith_full w⟩, ⟨_, rfl⟩, fun _ _ => step_log2Cap⟩

theorem resetWith_inv (w : Nat) : (State.resetWith w).Inv where
  head_lt := cap_pos _
  tail_lt := cap_pos _
  count_le := Nat.zero_le _
  storage_wf := List.Pairwise.nil
  storage_lt := by simp
  dst_wf := List.Pairwise.nil
  call_ok := by simp [State.CallOk]

/-- Settles O32: nothing is written at reset and no call is in progress. -/
theorem invHoldsAtReset : Obligations.InvHoldsAtReset :=
  fun w => ⟨resetWith_inv w, by simp [State.PopReady]⟩

/-- Settles O44: the flags are defined from `count` and the capacity alone. -/
theorem flagsFollowCount : Obligations.FlagsFollowCount := by
  refine ⟨fun s => ⟨empty_iff s, full_iff s⟩, fun s t hcap hcount => ⟨?_, ?_⟩,
    fun w => ⟨resetWith_empty w, resetWith_full w⟩⟩
  · simp only [State.empty, hcount]
  · simp only [State.full, hcount, hcap]

end Sys2Proof.Machine
end

section
/-! The memory family of statements (20_memory.md): which presentation a step performs, and the wrap of an index. First what
a step performs, said once for any presentation and the foreground's turn. -/

namespace Sys2Proof.Machine

/-! ### O7: what a step performs -/

@[simp] theorem foregroundInstr_of_call {s : State} {c : StringCall} (h : s.call = some c) :
    s.foregroundInstr = .receiveString c.size := by
  simp [State.foregroundInstr, h]

@[simp] theorem foregroundInstr_of_no_call {s : State} (h : s.call = none) : s.foregroundInstr = .idle := by
  simp [State.foregroundInstr, h]

@[simp] theorem mustWait_request {s : State} {r : Req} :
    s.mustWait (.request r) = true ↔ s.call ≠ none ∧ (decode r).byConsumer = true := by
  simp [State.mustWait, Option.isSome_iff_ne_none]

@[simp] theorem mustWait_op {s : State} {i : Instr} :
    s.mustWait (.op i) = true ↔ s.call ≠ none ∧ i.byConsumer = true := by
  simp [State.mustWait, Option.isSome_iff_ne_none]

@[simp] theorem mustWait_turn (s : State) : s.mustWait .turn = false := rfl

/-- Nothing presented: the foreground's turn. -/
theorem step_of_pending_nil {s : State} (hp : s.pending = []) : step s = exec s.foregroundInstr s := by
  simp [step, State.fetch, hp]

section
variable {s : State} {p : Presented} {rest : List Presented}

/-- A presentation that need not wait is taken and performed. -/
theorem step_of_not_mustWait (hp : s.pending = p :: rest) (hw : ¬ s.mustWait p = true) :
    step s = exec (p.instr s) { s with pending := rest } := by
  simp [step, State.fetch, hp, hw]

/-- A presentation that must wait stays, and the foreground has its turn. -/
theorem step_of_mustWait (hp : s.pending = p :: rest) (hw : s.mustWait p = true) :
    step s = exec s.foregroundInstr s := by
  simp [step, State.fetch, hp, hw]

theorem step_of_turn_eq_foreground (hp : s.pending = .turn :: rest) :
    step s = exec s.foregroundInstr { s with pending := rest } :=
  step_of_not_mustWait hp (by simp)

end

/-- Settles O7: a presentation is taken or waits, and the foreground's turn is its call's next step or IDLE. -/
theorem stepPerformsWhatIsPresented : Obligations.StepPerformsWhatIsPresented := by
  intro s rest
  refine ⟨fun r hp h => ?_, fun i hp h => ?_, fun c hp hc => ?_, fun hp hc => ?_, fun c hp hc => ?_, fun hp hc => ?_,
    fun c r hp hc hr => ?_, fun c i hp hc hi => ?_⟩
  · refine step_of_not_mustWait hp fun hw => ?_
    obtain ⟨hcall, hcons⟩ := mustWait_request.mp hw
    exact h.elim hcall (by simp [hcons])
  · refine step_of_not_mustWait hp fun hw => ?_
    obtain ⟨hcall, hcons⟩ := mustWait_op.mp hw
    exact h.elim hcall (by simp [hcons])
  · rw [step_of_turn_eq_foreground hp, foregroundInstr_of_call hc]
  · rw [step_of_turn_eq_foreground hp, foregroundInstr_of_no_call hc]
  · rw [step_of_pending_nil hp, foregroundInstr_of_call hc]
  · rw [step_of_pending_nil hp, foregroundInstr_of_no_call hc]
  · rw [step_of_mustWait hp (mustWait_request.mpr ⟨by simp [hc], hr⟩), foregroundInstr_of_call hc]
  · rw [step_of_mustWait hp (mustWait_op.mpr ⟨by simp [hc], hi⟩), foregroundInstr_of_call hc]

/-! ### O47: the wrap of an index -/

/-- `C` is a power of two, so the remainder mod `C` is the mask of its low bits (R59). -/
theorem succIndex_eq_and (s : State) (i : Nat) : s.succIndex i = (i + 1) &&& (s.cap - 1) :=
  (Nat.and_two_pow_sub_one_eq_mod (i + 1) s.log2Cap).symm

theorem succIndex_cap_sub_one (s : State) : s.succIndex (s.cap - 1) = 0 := by
  rw [State.succIndex, Nat.sub_add_cancel (cap_pos s), Nat.mod_self]

/-- Settles O47: the bitmask, the wrap at `C - 1` and the range. -/
theorem indexWrapIsABitmask : Obligations.IndexWrapIsABitmask :=
  fun s i => ⟨succIndex_eq_and s i, succIndex_cap_sub_one s, succIndex_lt s i⟩

end Sys2Proof.Machine
end

section
/-! The encoding family of statements (30_encoding.md): the five rows of R54 as one function of `req[10:8]`, the encoder
against the decoder, a request presented as a vector or as a table word, and the forms of the values on the ports. -/

namespace Sys2Proof

/-! ### A request and its four fields -/

@[simp] theorem Req.rst_and (r r' : Req) : Req.rst (r &&& r') = (Req.rst r && Req.rst r') := BitVec.getLsbD_and

@[simp] theorem Req.rdEn_and (r r' : Req) : Req.rdEn (r &&& r') = (Req.rdEn r && Req.rdEn r') := BitVec.getLsbD_and

@[simp] theorem Req.wrEn_and (r r' : Req) : Req.wrEn (r &&& r') = (Req.wrEn r && Req.wrEn r') := BitVec.getLsbD_and

@[simp] theorem Req.wrData_and (r r' : Req) : Req.wrData (r &&& r') = Req.wrData r &&& Req.wrData r' :=
  BitVec.extractLsb'_and

theorem Req.eq_of_fields {r r' : Req} (hrst : Req.rst r = Req.rst r') (hrd : Req.rdEn r = Req.rdEn r')
    (hwr : Req.wrEn r = Req.wrEn r') (hdata : Req.wrData r = Req.wrData r') : r = r' := by
  rw [← Req.mk_fields r, hrst, hrd, hwr, hdata, Req.mk_fields r']

/-- The fields at their weights (R53). -/
theorem Req.toNat_mk (a b c : Bool) (d : Byte) :
    (Req.mk a b c d).toNat = 0x400 * a.toNat + 0x200 * b.toNat + 0x100 * c.toNat + d.toNat := by
  rw [Req.mk, BitVec.toNat_append, ← Nat.shiftLeft_add_eq_or_of_lt d.isLt, Nat.shiftLeft_eq]
  cases a <;> cases b <;> cases c <;> simp

/-- `wr_data` is added to the request that has none. -/
theorem Req.mk_eq_add (a b c : Bool) (d : Byte) : Req.mk a b c d = Req.mk a b c 0 + d.setWidth 11 := by
  have ha := a.toNat_le
  have hb := b.toNat_le
  have hc := c.toNat_le
  apply BitVec.eq_of_toNat_eq
  rw [BitVec.toNat_add, BitVec.toNat_setWidth, Req.toNat_mk, Req.toNat_mk]
  simp
  omega

/-! ### O2: the rows of R54 -/

/-- The row of R54's table that `req[10:8]` selects. -/
def rowOf : Bool → Bool → Bool → Fin requestRows.length
  | true, _, _ => ⟨0, by decide⟩
  | false, false, false => ⟨1, by decide⟩
  | false, false, true => ⟨2, by decide⟩
  | false, true, false => ⟨3, by decide⟩
  | false, true, true => ⟨4, by decide⟩

/-- A row whose mask leaves `wr_data` out does not look at it. -/
theorem RequestRow.fits_mk_congr_wrData {row : RequestRow} (hmask : Req.wrData row.mask = 0) (a b c : Bool) (d d' : Byte) :
    row.fits (Req.mk a b c d) = row.fits (Req.mk a b c d') := by
  have hand : Req.mk a b c d &&& row.mask = Req.mk a b c d' &&& row.mask :=
    Req.eq_of_fields (by simp) (by simp) (by simp) (by simp [hmask])
  rw [RequestRow.fits, RequestRow.fits, hand]

theorem wrData_mask_requestRows (j : Fin requestRows.length) : Req.wrData requestRows[j].mask = 0 := by
  revert j
  decide

/-- One row fits each value of `req[10:8]`. -/
theorem fits_mk_zero_iff (a b c : Bool) (j : Fin requestRows.length) :
    requestRows[j].fits (Req.mk a b c 0) = true ↔ j = rowOf a b c := by
  revert a b c j
  decide +kernel

theorem fits_iff (r : Req) (j : Fin requestRows.length) :
    requestRows[j].fits r = true ↔ j = rowOf (Req.rst r) (Req.rdEn r) (Req.wrEn r) := by
  calc requestRows[j].fits r = true
    _ ↔ requestRows[j].fits (Req.mk (Req.rst r) (Req.rdEn r) (Req.wrEn r) (Req.wrData r)) = true := by
      rw [Req.mk_fields]
    _ ↔ requestRows[j].fits (Req.mk (Req.rst r) (Req.rdEn r) (Req.wrEn r) 0) = true := by
      rw [RequestRow.fits_mk_congr_wrData (wrData_mask_requestRows j)]
    _ ↔ j = rowOf (Req.rst r) (Req.rdEn r) (Req.wrEn r) := fits_mk_zero_iff _ _ _ j

theorem decode_mk (a b c : Bool) (d : Byte) : decode (Req.mk a b c d) = requestRows[rowOf a b c].operation d := by
  simp only [decode, Req.rst_mk, Req.rdEn_mk, Req.wrEn_mk, Req.wrData_mk]
  cases a with
  | true => rfl
  | false => cases b <;> cases c <;> rfl

theorem decode_eq_operation (r : Req) :
    decode r = requestRows[rowOf (Req.rst r) (Req.rdEn r) (Req.wrEn r)].operation (Req.wrData r) :=
  calc decode r
    _ = decode (Req.mk (Req.rst r) (Req.rdEn r) (Req.wrEn r) (Req.wrData r)) := by rw [Req.mk_fields]
    _ = requestRows[rowOf (Req.rst r) (Req.rdEn r) (Req.wrEn r)].operation (Req.wrData r) := decode_mk ..

theorem operation_wf {row : RequestRow} (h : row ∈ requestRows) (d : Byte) : (row.operation d).wf = true := by
  simp only [requestRows, List.mem_cons, List.not_mem_nil, or_false] at h
  rcases h with rfl | rfl | rfl | rfl | rfl <;> rfl

theorem decode_wf (r : Req) : (decode r).wf = true := by
  rw [decode_eq_operation]
  exact operation_wf (List.getElem_mem _) _

theorem Instr.wf_iff_format (i : Instr) : i.wf = true ↔ i.format = .req := by
  cases i <;> simp [Instr.wf, Instr.format]

theorem encode_push (d : Byte) : encode (.push d) = some (0x100 + d.setWidth 11) :=
  congrArg some (Req.mk_eq_add false false true d)

theorem encode_pushPop (d : Byte) : encode (.pushPop d) = some (0x300 + d.setWidth 11) :=
  congrArg some (Req.mk_eq_add false true true d)

/-- Settles O2: the row that fits is the one `req[10:8]` selects, and the decoder gives its operation. -/
theorem requestRowsPartition : Obligations.RequestRowsPartition := by
  refine ⟨fun r => ⟨_, (fits_iff r _).mpr rfl, decode_eq_operation r, fun j => (fits_iff r j).mp⟩, fun r d j => ?_,
    rfl, rfl, rfl, rfl, fun d => ⟨encode_push d, encode_pushPop d⟩,
    fun r => (Instr.wf_iff_format _).mp (decode_wf r)⟩
  rw [RequestRow.fits_mk_congr_wrData (wrData_mask_requestRows j) _ _ _ d (Req.wrData r), Req.mk_fields]

/-! ### O3: the encoder against the decoder -/

@[simp] theorem decode_mk_push (d : Byte) : decode (Req.mk false false true d) = .push d :=
  decode_mk false false true d

@[simp] theorem decode_mk_pushPop (d : Byte) : decode (Req.mk false true true d) = .pushPop d :=
  decode_mk false true true d

theorem decode_encode {i : Instr} {r : Req} (h : encode i = some r) : decode r = i.expand := by
  cases i with
  | reset => cases h; exact decode_of_rst rfl
  | idle => cases h; exact decode_of_idle rfl rfl rfl
  | push d | rxEvent d =>
    cases h
    exact decode_mk_push d
  | pop | receiveByte => cases h; exact decode_of_pop rfl rfl rfl
  | pushPop d =>
    cases h
    exact decode_mk_pushPop d
  | available | receiveAvailable | receiveString n => cases h

theorem encode_eq_none_iff (i : Instr) :
    encode i = none ↔ i = .available ∨ i = .receiveAvailable ∨ ∃ n, i = .receiveString n := by
  cases i <;> simp [encode]

theorem Instr.expand_of_wf {i : Instr} (h : i.wf = true) : i.expand = i := by
  cases i with
  | reset | idle | push d | pop | pushPop d => rfl
  | available | rxEvent b | receiveAvailable | receiveByte | receiveString n => cases h

theorem exists_encode_of_wf {i : Instr} (h : i.wf = true) : ∃ r, encode i = some r := by
  refine Option.ne_none_iff_exists'.mp fun hnone => ?_
  rcases (encode_eq_none_iff i).mp hnone with rfl | rfl | ⟨n, rfl⟩ <;> cases h

/-- Settles O3: an encoding decodes to the expansion, which a well-formed operation is its own. -/
theorem encodeThenDecode : Obligations.EncodeThenDecode := by
  refine ⟨fun i hi => ?_, fun i r => decode_encode, decode_wf, encode_eq_none_iff⟩
  obtain ⟨r, hr⟩ := exists_encode_of_wf hi
  exact ⟨r, hr, (decode_encode hr).trans (Instr.expand_of_wf hi)⟩

end Sys2Proof

namespace Sys2Proof.Machine

/-! ### O5: every request is an operation -/

/-- Only receiveString can fault; every other operation answers a next state. -/
theorem exec_next_of_ne_receiveString {i : Instr} (hi : ∀ n, i ≠ .receiveString n) (s : State) :
    ∃ t, exec i s = .next t := by
  cases i with
  | receiveString n => exact absurd rfl (hi n)
  | reset | idle | push d | pop | pushPop d | available | rxEvent b | receiveAvailable | receiveByte => exact ⟨_, rfl⟩

theorem decode_ne_receiveString (r : Req) (n : Nat) : decode r ≠ .receiveString n := by
  intro h
  have hwf := decode_wf r
  rw [h] at hwf
  cases hwf

theorem decode_mk_of_wrData_ignored {r : Req} (h : Req.rst r = true ∨ Req.wrEn r = false) (d : Byte) :
    decode (Req.mk (Req.rst r) (Req.rdEn r) (Req.wrEn r) d) = decode r := by
  cases hrst : Req.rst r with
  | true => rw [decode_of_rst hrst, decode_of_rst (Req.rst_mk ..)]
  | false =>
    have hwr : Req.wrEn r = false := h.resolve_left (by simp [hrst])
    cases hrd : Req.rdEn r <;> simp [decode, hrst, hrd, hwr]

/-- Settles O5: no request decodes to receiveString, the one operation that can fault. -/
theorem noRequestIsIllegal : Obligations.NoRequestIsIllegal := by
  refine ⟨fun s r => ?_, fun r d h => decode_mk_of_wrData_ignored h d, fun r a b h => ?_,
    fun d s _ => ⟨_, exec_push d s⟩, fun s _ => ⟨_, exec_pop s⟩⟩
  · rw [step_presentRequest]
    exact exec_next_of_ne_receiveString (decode_ne_receiveString r) _
  · rw [decode_of_rst h, decode_of_rst (Req.rst_mk ..)]

/-! ### O6: table words -/

/-- A number with a bit above `req[10]` has it in the container's second or third byte. -/
theorem requestOfBytes_wordBytes_error {w : Nat} (hw : 2048 ≤ w) :
    ∃ e, requestOfBytes (wordBytes w) = .error e := by
  by_cases h : w < 65536
  · have hhi : ¬ w / 256 % 256 < 8 := by omega
    exact ⟨.bitAboveRequest, by simp [wordBytes, requestOfBytes, h, hhi]⟩
  · exact ⟨.wrongLength 3, by simp [wordBytes, requestOfBytes, h]⟩

theorem decodeTableWord_of_lt (nbits : Nat) {w : Nat} (hw : w < 2048) :
    decodeTableWord nbits w = some (decode (BitVec.ofNat 11 w)) := by
  simp only [decodeTableWord, decodeBytes, requestOfBytes_wordBytes hw]
  rfl

theorem decodeTableWord_of_le (nbits : Nat) {w : Nat} (hw : 2048 ≤ w) : decodeTableWord nbits w = none := by
  obtain ⟨e, he⟩ := requestOfBytes_wordBytes_error hw
  simp only [decodeTableWord, decodeBytes, he]
  rfl

theorem withFetchWord_of_lt (s : State) (nbits : Nat) {w : Nat} (hw : w < 2048) :
    s.withFetchWord nbits w = s.presentRequest (BitVec.ofNat 11 w) := by
  simp only [State.withFetchWord, requestOfBytes_wordBytes hw]

/-- Settles O6: the container holds exactly the 11-bit numbers, and what it holds is presented. -/
theorem tableWordsAreRequests : Obligations.TableWordsAreRequests := by
  refine ⟨fun nbits _ => decodeTableWord_of_lt nbits, fun nbits _ => decodeTableWord_of_le nbits,
    fun s nbits w hw => ?_⟩
  rw [withFetchWord_of_lt s nbits hw, step_presentRequest]
  refine ⟨_, rfl, ⟨rfl, fun _ => rfl, rfl, rfl, rfl⟩, ⟨rfl, rfl⟩, rfl, rfl, rfl, fun h => ?_⟩
  rcases h with hcall | hcons
  · simp [← hcall]
  · simp [hcons]

/-! ### O45 and O46: the values on the ports -/

theorem toNat_countPort {s : State} (h : s.count ≤ s.cap) : s.countPort.toNat = s.count := by
  have hlt : s.count < 2 ^ (s.log2Cap + 1) := h.trans_lt (Nat.pow_lt_pow_succ Nat.one_lt_two)
  rw [State.countPort, BitVec.toNat_ofNat, Nat.mod_eq_of_lt hlt]

theorem toNat_countZext (s : State) {n : Nat} (hn : s.log2Cap + 1 ≤ n) : (s.countZext n).toNat = s.countPort.toNat :=
  BitVec.toNat_setWidth_of_le hn

/-- Settles O45: `count <= C = 2 ^ W` fits `W + 1` bits, and zero extension keeps the number. -/
theorem countPortShowsCount : Obligations.CountPortShowsCount :=
  fun s h => ⟨toNat_countPort h, fun _ hn => (toNat_countZext s hn).trans (toNat_countPort h)⟩

/-- Sign extension keeps the signed value. -/
theorem toInt_sext {n : Nat} (hn : 8 ≤ n) (r : PopResult) : (r.sext n).toInt = r.data.toInt :=
  BitVec.toInt_signExtend_of_le hn

theorem byte_ne_empty (v : Byte) : PopResult.byte v ≠ PopResult.empty := by
  intro h
  exact Bool.noConfusion (congrArg PopResult.valid h)

/-- Settles O46: the pop's two results, with the same data when the byte is 0xFF and never the same `rd_valid`. -/
theorem sentinelCollidesWithADataByte : Obligations.SentinelCollidesWithADataByte := by
  refine ⟨fun s => ⟨_, exec_pop s, fun h => ?_, fun h => ⟨s.memRead s.tail, ?_⟩⟩, rfl, fun _ => rfl, fun n hn => ?_,
    fun v => Iff.rfl, byte_ne_empty⟩
  · exact popResult_of_zero h
  · exact popResult_of_pos h
  · rw [toInt_sext hn]
    decide

end Sys2Proof.Machine
end

section
/-! The buffer's operations (40_fifo_ops.md): RESET, IDLE, PUSH, POP and PUSH_POP from every state, rows of pushes and of
pops, and what a row of pops returns. The facts the statements share stand first: the buffer's push and pop by the value of
`count`, a row of pushes as one function (`State.pushAll`), and a row of pops slot by slot (`popResults_eq_map_range`). -/

namespace Sys2Proof.Machine

/-! ### The buffer as it was -/

theorem State.SameBuffer.refl (s : State) : s.SameBuffer s := ⟨rfl, fun _ => rfl, rfl, rfl, rfl⟩

theorem State.SameBuffer.trans {s t u : State} (h : s.SameBuffer t) (h' : t.SameBuffer u) : s.SameBuffer u where
  log2Cap := h'.log2Cap.trans h.log2Cap
  storage a := (h'.storage a).trans (h.storage a)
  head := h'.head.trans h.head
  tail := h'.tail.trans h.tail
  count := h'.count.trans h.count

theorem sameBuffer_quiet (s : State) : s.SameBuffer s.quiet := ⟨rfl, fun _ => rfl, rfl, rfl, rfl⟩

theorem State.SameBuffer.empty {s t : State} (h : s.SameBuffer t) : t.empty = s.empty := by
  simp only [State.empty, h.count]

theorem State.SameBuffer.full {s t : State} (h : s.SameBuffer t) : t.full = s.full := by
  simp only [State.full, h.count, h.cap]

theorem empty_eq_false_iff (s : State) : s.empty = false ↔ 0 < s.count := by
  simp [State.empty, Nat.pos_iff_ne_zero]

theorem full_eq_false_iff (s : State) : s.full = false ↔ s.count ≠ s.cap := by simp [State.full]

/-! ### The index arithmetic -/

theorem succIndex_ne {s : State} {i j : Nat} (hi : i < s.cap) (hj : j < s.cap) (h : i ≠ j) :
    s.succIndex i ≠ s.succIndex j := fun heq =>
  h ((Nat.ModEq.add_right_cancel' 1 heq).eq_of_lt_of_lt hi hj)

/-! ### The buffer's push and pop by the value of `count` -/

theorem pushBlock_count_of_lt {s : State} (d : Byte) (h : s.count < s.cap) : (s.pushBlock d).count = s.count + 1 :=
  if_pos h

theorem pushBlock_count_of_le {s : State} (d : Byte) (h : s.cap ≤ s.count) : (s.pushBlock d).count = s.cap :=
  if_neg h.not_gt

theorem pushBlock_count_pos (d : Byte) (s : State) : 0 < (s.pushBlock d).count := by
  have := cap_pos s
  rw [pushBlock_count]
  split <;> omega

theorem popBlock_tail_of_pos {s : State} (h : 0 < s.count) : s.popBlock.tail = s.succIndex s.tail :=
  if_neg h.ne'

theorem popBlock_tail_of_zero {s : State} (h : s.count = 0) : s.popBlock.tail = s.tail := if_pos h

/-- A pop on an empty buffer leaves it as it is (R75). -/
theorem sameBuffer_popBlock_of_zero {s : State} (h : s.count = 0) : s.SameBuffer s.popBlock where
  log2Cap := rfl
  storage _ := rfl
  head := rfl
  tail := popBlock_tail_of_zero h
  count := by rw [popBlock_count, h]

theorem sameBuffer_handBack_popStep_of_zero {s : State} (v : Ret) (h : s.count = 0) :
    s.SameBuffer (s.popStep.handBack v) :=
  (sameBuffer_popBlock_of_zero h).trans ⟨rfl, fun _ => rfl, rfl, rfl, rfl⟩

/-- A pop right after a push returns slot `tail`, which the push wrote only if `head` is there. -/
theorem popResult_pushBlock (d : Byte) (s : State) :
    (s.pushBlock d).popResult = ⟨true, if s.tail = s.head then d else s.memRead s.tail⟩ := by
  rw [popResult_of_pos (pushBlock_count_pos d s), pushBlock_tail, memRead_pushBlock]

@[simp] theorem popResult_quiet (s : State) : s.quiet.popResult = s.popResult := rfl

theorem Ghost.lost_push_of_full {s : State} (d : Byte) (g : Ghost) (h : s.count = s.cap) :
    (g.push d s).lost = g.lost + 1 :=
  if_neg (by omega)

/-- An RX event is a push (R90). -/
theorem exec_push_or_rxEvent {i : Instr} {d : Byte} (h : i = .push d ∨ i = .rxEvent d) (s : State) :
    exec i s = .next (s.pushBlock d).quiet := by
  rcases h with rfl | rfl <;> rfl

/-- receiveByte is a pop (R95). -/
theorem exec_pop_or_receiveByte {i : Instr} (h : i = .pop ∨ i = .receiveByte) (s : State) :
    exec i s = .next (s.popStep.handBack (.popped s.popResult)) := by
  rcases h with rfl | rfl <;> rfl

/-! ### A row of pushes -/

/-- The state after pushing a row of bytes. -/
def State.pushAll : List Byte → State → State
  | [], s => s
  | d :: ds, s => State.pushAll ds (s.pushBlock d).quiet

@[simp] theorem pushAll_nil (s : State) : s.pushAll [] = s := rfl

@[simp] theorem pushAll_cons (d : Byte) (ds : List Byte) (s : State) :
    s.pushAll (d :: ds) = (s.pushBlock d).quiet.pushAll ds := rfl

theorem runOps_cons {i : Instr} {s t : State} (is : List Instr) (h : exec i s = .next t) :
    runOps (i :: is) s = runOps is t := by
  simp [runOps, h]

/-- A row of PUSHes, or of RX events, is a row of pushes. -/
theorem runOps_map_eq_pushAll {f : Byte → Instr} (hf : ∀ d, f d = .push d ∨ f d = .rxEvent d) (bytes : List Byte)
    (s : State) : runOps (bytes.map f) s = .next (s.pushAll bytes) := by
  induction bytes generalizing s with
  | nil => rfl
  | cons d ds ih => rw [List.map_cons, runOps_cons _ (exec_push_or_rxEvent (hf d) s), ih, pushAll_cons]

theorem runOps_pushes (bytes : List Byte) (s : State) : runOps (bytes.map .push) s = .next (s.pushAll bytes) :=
  runOps_map_eq_pushAll (fun _ => .inl rfl) bytes s

theorem runOps_rxEvents (bytes : List Byte) (s : State) : runOps (bytes.map .rxEvent) s = .next (s.pushAll bytes) :=
  runOps_map_eq_pushAll (fun _ => .inr rfl) bytes s

@[simp] theorem pushAll_cap (bytes : List Byte) (s : State) : (s.pushAll bytes).cap = s.cap := by
  induction bytes generalizing s with
  | nil => rfl
  | cons d ds ih => simp [ih]

@[simp] theorem pushAll_tail (bytes : List Byte) (s : State) : (s.pushAll bytes).tail = s.tail := by
  induction bytes generalizing s with
  | nil => rfl
  | cons d ds ih => simp [ih]

theorem pushAll_head {s : State} (bytes : List Byte) (hh : s.head < s.cap) :
    (s.pushAll bytes).head = (s.head + bytes.length) % s.cap := by
  induction bytes generalizing s with
  | nil => simp [Nat.mod_eq_of_lt hh]
  | cons d ds ih =>
    rw [pushAll_cons, ih (succIndex_lt s s.head)]
    simp [State.succIndex, Nat.add_assoc, Nat.add_comm 1]

theorem pushAll_count {s : State} (bytes : List Byte) (hc : s.count ≤ s.cap) :
    (s.pushAll bytes).count = min (s.count + bytes.length) s.cap := by
  induction bytes generalizing s with
  | nil => simp [hc]
  | cons d ds ih =>
    have hpush : (s.pushBlock d).quiet.count = min (s.count + 1) s.cap := by
      rw [quiet_count, pushBlock_count]
      split <;> omega
    rw [pushAll_cons, ih (by rw [hpush]; exact min_le_right _ _), hpush, quiet_cap, pushBlock_cap, List.length_cons]
    omega

/-- Only the slots the row comes to are written. -/
theorem read_pushAll_other {s : State} {bytes : List Byte} {a : Nat} (hh : s.head < s.cap)
    (ha : ∀ j, j < bytes.length → (s.head + j) % s.cap ≠ a) :
    Memory.read (s.pushAll bytes).storage a = Memory.read s.storage a := by
  induction bytes generalizing s with
  | nil => rfl
  | cons d ds ih =>
    have hhead : a ≠ s.head := by
      simpa [Nat.mod_eq_of_lt hh] using (ha 0 (Nat.succ_pos _)).symm
    have hrest : ∀ j, j < ds.length → ((s.pushBlock d).quiet.head + j) % s.cap ≠ a := fun j hj => by
      simpa [State.succIndex, Nat.add_assoc, Nat.add_comm 1] using ha (j + 1) (Nat.succ_lt_succ hj)
    rw [pushAll_cons, ih (succIndex_lt s s.head) hrest]
    exact Memory.read_write_other _ d hhead

/-- The byte of push number `m` stands in its slot while fewer than `C` pushes have followed it. -/
theorem read_pushAll {s : State} {bytes : List Byte} {m : Nat} (hh : s.head < s.cap) (hm : m < bytes.length)
    (hlast : bytes.length ≤ m + s.cap) :
    Memory.read (s.pushAll bytes).storage ((s.head + m) % s.cap) = bytes[m]? := by
  induction bytes generalizing s m with
  | nil => cases hm
  | cons d ds ih =>
    simp only [List.length_cons] at hm hlast
    cases m with
    | zero =>
      have hother : ∀ j, j < ds.length → ((s.pushBlock d).quiet.head + j) % s.cap ≠ s.head := fun j hj => by
        have hne := slot_ne (c := s.cap) (p := s.head + 1 + j) (k := j) (by omega) (by omega)
        rw [show s.head + 1 + j - 1 - j = s.head by omega, Nat.mod_eq_of_lt hh] at hne
        simpa [State.succIndex] using hne.symm
      rw [pushAll_cons, Nat.add_zero, Nat.mod_eq_of_lt hh, read_pushAll_other (succIndex_lt s s.head) hother]
      simp
    | succ m =>
      have hnext := ih (s := (s.pushBlock d).quiet) (m := m) (succIndex_lt s s.head) (by omega)
        (by rw [quiet_cap, pushBlock_cap]; omega)
      simpa [State.succIndex, Nat.add_assoc, Nat.add_comm 1] using hnext

/-! ### A row of pops -/

theorem popResults_succ (n : Nat) (s : State) :
    popResults (n + 1) s = s.popResult :: popResults n (s.popStep.handBack (.popped s.popResult)) := rfl

/-- A row of at most `count` pops returns the slots from `tail` on. -/
theorem popResults_eq_map_range {n : Nat} {s : State} (ht : s.tail < s.cap) (hn : n ≤ s.count) :
    popResults n s = (List.range n).map fun k => ⟨true, s.memRead ((s.tail + k) % s.cap)⟩ := by
  induction n generalizing s with
  | zero => rfl
  | succ n ih =>
    have hpos : 0 < s.count := by omega
    have htail : (s.popStep.handBack (.popped s.popResult)).tail = s.succIndex s.tail := popBlock_tail_of_pos hpos
    rw [popResults_succ, ih (by rw [htail]; exact succIndex_lt s s.tail)
      (by rw [handBack_count, popStep_count]; omega), List.range_succ_eq_map, htail, popResult_of_pos hpos]
    simp [State.succIndex, State.memRead, Nat.mod_eq_of_lt ht, Nat.add_assoc, Nat.add_comm 1]

/-- A row of pops returns the list whose bytes stand in the slots from `tail` on. -/
theorem popResults_eq_map_of_slots {s : State} {l : List Byte} (ht : s.tail < s.cap) (hl : l.length ≤ s.count)
    (hslot : ∀ k (hk : k < l.length), s.memRead ((s.tail + k) % s.cap) = l[k]) :
    popResults l.length s = l.map fun v => ⟨true, v⟩ := by
  rw [popResults_eq_map_range ht hl]
  refine List.ext_getElem (by simp) fun k hk _ => ?_
  simp [hslot k (by simpa using hk)]

/-! ### O39 and O40: what the pops of a reachable state return -/

theorem Linked.tail_lt {s : State} {g : Ghost} (h : Linked s g) : s.tail < s.cap := by
  rw [h.tail_eq]
  exact Nat.mod_lt _ (cap_pos s)

/-- Slot `head - k` holds the `k`-th most recent byte (R80). -/
theorem Linked.read_head_sub {s : State} {g : Ghost} (h : Linked s g) {k : Nat} (hk : 1 ≤ k) (hcap : k ≤ s.cap)
    (hp : k ≤ g.pushes.length) :
    Memory.read s.storage ((s.head + s.cap - k) % s.cap) = g.pushes[k - 1]? := by
  have hslot : (s.head + s.cap - k) % s.cap = (g.pushes.length - 1 - (k - 1)) % s.cap :=
    calc (s.head + s.cap - k) % s.cap
      _ = (g.pushes.length % s.cap + (s.cap - k)) % s.cap := by rw [h.head_eq, Nat.add_sub_assoc hcap]
      _ = (g.pushes.length + (s.cap - k)) % s.cap := Nat.mod_add_mod _ _ _
      _ = (g.pushes.length - 1 - (k - 1) + s.cap) % s.cap := congrArg (· % s.cap) (by omega)
      _ = (g.pushes.length - 1 - (k - 1)) % s.cap := Nat.add_mod_right _ _
  have hlt : k - 1 < g.pushes.length := by omega
  rw [hslot, List.getElem?_eq_getElem hlt]
  exact h.content (k - 1) _ (by omega) (List.getElem?_eq_getElem hlt)

/-- The slot of pop number `i` of a row holds the pushed byte whose push number is the last one that is `Q + i` mod C
(R80). -/
theorem Linked.read_pop_slot {s : State} {g : Ghost} (h : Linked s g) {i : Nat} (hi : i < s.count) :
    ∃ v, g.pushes[(s.count + g.lost % s.cap - i - 1) % s.cap]? = some v ∧
      Memory.read s.storage ((s.tail + i) % s.cap) = some v := by
  have hacc := h.account
  have hlost := Nat.div_add_mod g.lost s.cap
  have hdiv := Nat.div_add_mod (s.count + g.lost % s.cap - i - 1) s.cap
  have hk : (s.count + g.lost % s.cap - i - 1) % s.cap < g.pushes.length := by
    have := Nat.mod_le (s.count + g.lost % s.cap - i - 1) s.cap
    have := Nat.mod_le g.lost s.cap
    omega
  have hslot : g.pushes.length - 1 - (s.count + g.lost % s.cap - i - 1) % s.cap =
      g.popped + i + s.cap * (g.lost / s.cap + (s.count + g.lost % s.cap - i - 1) / s.cap) := by
    rw [Nat.mul_add]
    omega
  have hread := h.content _ _ (Nat.mod_lt _ (cap_pos s)) (List.getElem?_eq_getElem hk)
  rw [hslot, Nat.add_mul_mod_self_left, ← Nat.mod_add_mod, ← h.tail_eq] at hread
  exact ⟨_, List.getElem?_eq_getElem hk, hread⟩

/-- Settles O39: the slots before `head` by push number, and each pop's slot by its push number mod C. -/
theorem popsReturnTheShiftedWindow : Obligations.PopsReturnTheShiftedWindow := by
  intro s g h hp
  have hl := h.linked
  refine ⟨fun k hk hcap => hl.read_head_sub hk hcap (hcap.trans hp), fun i hi => ?_⟩
  obtain ⟨v, hv, hread⟩ := hl.read_pop_slot hi
  refine ⟨v, hv, ?_⟩
  rw [popResults_eq_map_range hl.tail_lt le_rfl]
  simp [hi, memRead_of_read hread]

/-- Settles O40: with `L mod C = 0` the shift is 0, so pop number `i` returns the byte pushed `count - i - 1` before the
last. -/
theorem alignedPopsAreInArrivalOrder : Obligations.AlignedPopsAreInArrivalOrder := by
  intro s g h hlost
  have hl := h.linked
  have hle : s.count ≤ g.pushes.length := by
    have := hl.account
    omega
  have hlen : (g.pushes.take s.count).reverse.length = s.count := by simp [hle]
  conv_lhs => rw [← hlen]
  refine popResults_eq_map_of_slots hl.tail_lt hlen.le fun i hi => ?_
  rw [hlen] at hi
  obtain ⟨v, hv, hread⟩ := hl.read_pop_slot hi
  have hcount := hl.count_le
  have hmod : (s.count - i - 1) % s.cap = s.count - 1 - i := by
    rw [Nat.mod_eq_of_lt (by omega)]
    omega
  rw [hlost, Nat.add_zero, hmod] at hv
  obtain ⟨_, hget⟩ := List.getElem?_eq_some_iff.mp hv
  simp [memRead_of_read hread, hle, hget]

/-! ### O36: the occupancy -/

/-- Settles O36: `P = count + L + Q` with `count <= C`, so `P - Q = count + L`. -/
theorem occupancyAccounting : Obligations.OccupancyAccounting := by
  intro s g h
  have hacc := h.linked.account
  have hle := h.linked.count_le
  refine ⟨hacc, by omega, ?_⟩
  have hpq : g.pushes.length - g.popped = s.count + g.lost := by omega
  rw [hpq]
  omega

/-! ### O41, O42, O43: aligned, shifted and overflowed buffers -/

/-- From an aligned empty buffer at most `C` pushes and as many pops keep the order (R82). -/
theorem popResults_pushAll_of_aligned {s : State} {bytes : List Byte} (hh : s.head < s.cap) (hc : s.count = 0)
    (halign : s.head = s.tail) (hlen : bytes.length ≤ s.cap) :
    popResults bytes.length (s.pushAll bytes) = bytes.map fun v => ⟨true, v⟩ := by
  have hcount : (s.pushAll bytes).count = bytes.length := by
    rw [pushAll_count bytes (by omega), hc, Nat.zero_add, min_eq_left hlen]
  refine popResults_eq_map_of_slots (by rw [pushAll_tail, pushAll_cap, ← halign]; exact hh) hcount.ge fun k hk => ?_
  rw [pushAll_tail, pushAll_cap, ← halign]
  exact memRead_of_read ((read_pushAll hh hk (by omega)).trans (List.getElem?_eq_getElem hk))

theorem exists_byte_ne (v : Byte) : ∃ d : Byte, d ≠ v := ⟨v + 1, by bv_omega⟩

/-- Settles O41: with the indices apart one byte, unlike what slot `tail` holds, is enough to break the order. -/
theorem fifoExactlyWhenAligned : Obligations.FifoExactlyWhenAligned := by
  intro s hh ht hc
  constructor
  · intro h
    by_contra hne
    obtain ⟨d, hd⟩ := exists_byte_ne (s.memRead s.tail)
    obtain ⟨t, hrun, hpops⟩ := h [d] (cap_pos s)
    cases (runOps_pushes [d] s).symm.trans hrun
    have hstale : s.memRead s.tail = d := by
      simpa [popResults_succ, popResults, popResult_pushBlock, Ne.symm hne] using hpops
    exact hd hstale.symm
  · intro halign bytes hlen
    exact ⟨_, runOps_pushes bytes s, popResults_pushAll_of_aligned hh hc halign hlen⟩

/-- Settles O42: the push writes slot `head`, the pop reads slot `tail`, and both indices advance by one. -/
theorem shiftedBufferReturnsStaleBytes : Obligations.ShiftedBufferReturnsStaleBytes := by
  intro s d hh ht hc hne
  refine ⟨_, _, exec_push d s, exec_pop _, ?_, ?_, ?_⟩
  · rw [handBack_ret, popResult_quiet, popResult_pushBlock, if_neg hne.symm]
  · simp [hc, cap_pos s]
  · have htail : (s.pushBlock d).quiet.popStep.tail = s.succIndex s.tail :=
      popBlock_tail_of_pos (pushBlock_count_pos d s)
    rw [handBack_tail, htail]
    exact succIndex_ne hh ht hne

/-- Settles O43: the row of pushes, each byte in the slot of its push number, and the pops from slot 0. -/
theorem overflowKeepsTheLastBytesInSlotOrder : Obligations.OverflowKeepsTheLastBytesInSlotOrder := by
  intro w k bytes hlen
  have hcap : (State.resetWith w).cap = 2 ^ w := rfl
  have hh : (State.resetWith w).head < (State.resetWith w).cap := cap_pos _
  have hcount : ((State.resetWith w).pushAll bytes).count = 2 ^ w := by
    rw [pushAll_count bytes (Nat.zero_le _), resetWith_count, hcap]
    omega
  refine ⟨_, runOps_pushes bytes _, ?_, pushAll_cap bytes _, ?_, pushAll_tail bytes _, fun m hkm hm => ?_,
    fun a ha => ?_, ?_⟩
  · rw [hcount, pushAll_cap, hcap]
  · rw [pushAll_head bytes hh, resetWith_head, hcap, hlen]
    simp
  · simpa [hcap] using read_pushAll hh (show m < bytes.length by omega) (by omega)
  · have hslot : ∀ j, j < bytes.length → ((State.resetWith w).head + j) % (State.resetWith w).cap ≠ a :=
      fun j _ => ((Nat.mod_lt _ (cap_pos _)).trans_le ha).ne
    rw [read_pushAll_other hh hslot, resetWith_storage, Memory.read_nil]
  · rw [popResults_eq_map_range (by rw [pushAll_tail, pushAll_cap]; exact cap_pos _) hcount.ge]
    refine List.map_congr_left fun j hj => ?_
    rw [pushAll_tail, pushAll_cap, resetWith_tail, Nat.zero_add, hcap, Nat.mod_eq_of_lt (List.mem_range.mp hj)]

/-! ### O21: AVAILABLE's value -/

/-- Settles O21: AVAILABLE keeps `count`, and a row of pushes raises it to at most `C`. -/
theorem availableIsALowerBound : Obligations.AvailableIsALowerBound := by
  intro bytes s t hle ht
  cases (exec_available s).symm.trans ht
  have hcount := pushAll_count (s := s.quiet.handBack (.occupancy s.count)) bytes hle
  simp only [handBack_count, handBack_cap, quiet_count, quiet_cap] at hcount
  refine ⟨_, runOps_rxEvents bytes _, ?_, ?_, fun hfull => ?_⟩
  · rw [hcount]
    omega
  · rw [hcount, pushAll_cap]
    exact min_le_right _ _
  · rw [hcount]
    omega

/-! ### O15: pops on an empty buffer -/

theorem popResults_of_zero (n : Nat) {s : State} (h : s.count = 0) :
    popResults n s = List.replicate n PopResult.empty := by
  induction n generalizing s with
  | zero => rfl
  | succ n ih =>
    rw [popResults_succ, popResult_of_zero h, ih (by rw [handBack_count, popStep_count, h]), List.replicate_succ]

theorem runOps_pops_of_zero (n : Nat) {s : State} (h : s.count = 0) :
    ∃ t, runOps (List.replicate n .pop) s = .next t ∧ s.SameBuffer t := by
  induction n generalizing s with
  | zero => exact ⟨s, rfl, .refl s⟩
  | succ n ih =>
    have hb := sameBuffer_handBack_popStep_of_zero (.popped s.popResult) h
    obtain ⟨t, hrun, ht⟩ := ih (hb.count.trans h)
    exact ⟨t, hrun, hb.trans ht⟩

/-- Settles O15: one pop, and a row of pops by induction on its length. -/
theorem popOnEmptyReturnsSentinel : Obligations.PopOnEmptyReturnsSentinel := by
  refine ⟨fun i s hi hc => ?_, fun n s hc => ⟨popResults_of_zero n hc, runOps_pops_of_zero n hc⟩⟩
  have hres := popResult_of_zero hc
  exact ⟨_, exec_pop_or_receiveByte hi s, congrArg Ret.popped hres, hres, sameBuffer_handBack_popStep_of_zero _ hc, rfl,
    fun _ => rfl, rfl, rfl⟩

/-! ### O16, O17, O18: the two orders of PUSH_POP -/

/-- Settles O16: each order's buffer and result are those of the two operations, and the list `orders` can give either. -/
theorem pushPopIsOneOfTheTwoOrders : Obligations.PushPopIsOneOfTheTwoOrders := by
  refine ⟨fun d s => ⟨_, exec_pushPop d s, rfl, ?_, fun k => ?_, ?_, ?_, fun ho => ?_, fun ho => ?_⟩,
    fun s o => ⟨[o], rfl⟩⟩
  · simp
  · simp
  · simp
  · simp
  · rw [ho]
    exact ⟨_, _, exec_push d s, exec_pop _, ⟨rfl, fun _ => rfl, rfl, rfl, rfl⟩, rfl⟩
  · rw [ho]
    exact ⟨_, _, exec_pop s, exec_push d _, ⟨rfl, fun _ => rfl, rfl, rfl, rfl⟩, rfl⟩

/-- What PUSH_POP returns and leaves when the push is first. -/
theorem pushPop_pushFirst {s : State} (d : Byte) (hle : s.count ≤ s.cap) :
    s.pushPopResult .pushFirst d = ⟨true, if s.head = s.tail then d else s.memRead s.tail⟩ ∧
      (s.pushPopBlock .pushFirst d).tail = s.succIndex s.tail ∧
      (s.pushPopBlock .pushFirst d).count = if s.count = s.cap then s.cap - 1 else s.count := by
  refine ⟨?_, popBlock_tail_of_pos (pushBlock_count_pos d s), ?_⟩
  · simp only [State.pushPopResult, popResult_pushBlock, eq_comm]
  · simp only [State.pushPopBlock, popBlock_count, pushBlock_count]
    split <;> split <;> omega

/-- What PUSH_POP returns and leaves when the pop is first and finds no byte. -/
theorem pushPop_popFirst_of_zero {s : State} (d : Byte) (hc : s.count = 0) :
    s.pushPopResult .popFirst d = PopResult.empty ∧ (s.pushPopBlock .popFirst d).tail = s.tail ∧
      (s.pushPopBlock .popFirst d).count = 1 := by
  have hlt : s.popBlock.count < s.popBlock.cap := by
    rw [popBlock_count, hc]
    exact cap_pos s
  refine ⟨popResult_of_zero hc, popBlock_tail_of_zero hc, ?_⟩
  rw [State.pushPopBlock, pushBlock_count_of_lt d hlt, popBlock_count, hc]

/-- What PUSH_POP returns and leaves when the pop is first and finds a byte. -/
theorem pushPop_popFirst_of_pos {s : State} (d : Byte) (hle : s.count ≤ s.cap) (hc : 0 < s.count) :
    s.pushPopResult .popFirst d = ⟨true, s.memRead s.tail⟩ ∧
      (s.pushPopBlock .popFirst d).tail = s.succIndex s.tail ∧ (s.pushPopBlock .popFirst d).count = s.count := by
  have hlt : s.popBlock.count < s.popBlock.cap := by
    rw [popBlock_count, popBlock_cap]
    omega
  refine ⟨popResult_of_pos hc, popBlock_tail_of_pos hc, ?_⟩
  rw [State.pushPopBlock, pushBlock_count_of_lt d hlt, popBlock_count, Nat.sub_add_cancel hc]

/-- Settles O17: `storage` and `head` are the same in both orders; the rest by the order and by `count`. -/
theorem pushPopTable : Obligations.PushPopTable := by
  intro d s hle
  refine ⟨_, exec_pushPop d s, ?_, fun a ha => ?_, ?_, ?_, fun ho => ?_, fun ho => ⟨fun hc => ?_, fun hc => ?_⟩⟩
  · simp
  · simp [Memory.read_write_other _ d ha]
  · simp [State.succIndex]
  · simp
  · rw [ho]
    exact pushPop_pushFirst d hle
  · rw [ho]
    exact pushPop_popFirst_of_zero d hc
  · rw [ho]
    exact pushPop_popFirst_of_pos d hle hc

/-- With no overflow since reset the indices meet exactly in an empty and in a full buffer. -/
theorem Linked.head_eq_tail_iff {s : State} {g : Ghost} (h : Linked s g) (hlost : g.lost = 0) :
    s.head = s.tail ↔ s.count = 0 ∨ s.count = s.cap := by
  have hle := h.count_le
  have hmod : s.head = (s.tail + s.count) % s.cap := by simpa [hlost] using h.pointer_relation
  constructor
  · intro heq
    have hdvd : s.cap ∣ s.count := by
      rw [hmod] at heq
      exact Nat.modEq_zero_iff_dvd.mp
        (Nat.ModEq.add_left_cancel' s.tail (heq.trans (Nat.mod_eq_of_lt h.tail_lt).symm))
    rcases Nat.eq_zero_or_pos s.count with h0 | hpos
    · exact .inl h0
    · exact .inr (hle.antisymm (Nat.le_of_dvd hpos hdvd))
  · rintro (h0 | hfull)
    · rw [hmod, h0, Nat.add_zero, Nat.mod_eq_of_lt h.tail_lt]
    · rw [hmod, hfull, Nat.add_mod_right, Nat.mod_eq_of_lt h.tail_lt]

/-- Between empty and full, with the indices apart, the two orders have one result and one buffer (R76). -/
theorem pushPop_orders_agree {s : State} (d : Byte) (hpos : 0 < s.count) (hlt : s.count < s.cap)
    (hne : s.head ≠ s.tail) :
    s.pushPopResult .pushFirst d = s.pushPopResult .popFirst d ∧
      (s.pushPopBlock .pushFirst d).SameBuffer (s.pushPopBlock .popFirst d) := by
  obtain ⟨hres, htail, hcount⟩ := pushPop_pushFirst d hlt.le
  obtain ⟨hres', htail', hcount'⟩ := pushPop_popFirst_of_pos d hlt.le hpos
  rw [if_neg hne] at hres
  rw [if_neg hlt.ne] at hcount
  exact ⟨hres.trans hres'.symm, rfl, fun _ => rfl, rfl, htail'.trans htail.symm, hcount'.trans hcount.symm⟩

/-- Settles O18: the indices are apart between empty and full, so the pop does not read the slot pushed. -/
theorem pushPopOrdersAgreeInBetween : Obligations.PushPopOrdersAgreeInBetween := by
  intro s g d h hlost
  have hiff := h.linked.head_eq_tail_iff hlost
  refine ⟨hiff, fun hpos hlt => pushPop_orders_agree d hpos hlt fun heq => ?_⟩
  have := hiff.mp heq
  omega

/-! ### O9, O11, O12, O13, O14: each operation from every state -/

/-- Settles O9: the fields of the reset buffer; `rst` selects RESET whatever the other fields are. -/
theorem resetClearsTheIndices : Obligations.ResetClearsTheIndices := by
  refine ⟨fun s => ⟨_, exec_reset s, rfl, rfl, rfl, fun _ => rfl, rfl, rfl, ?_, rfl, ⟨rfl, fun _ => rfl, rfl⟩,
    ⟨rfl, rfl⟩⟩, fun a b d => decode_of_rst (Req.rst_mk ..), rfl, fun _ _ => rfl⟩
  rw [full_eq_false_iff]
  exact (cap_pos s).ne

/-- Settles O11: the step ends with nothing on the ports and writes nothing else. -/
theorem idleChangesNothing : Obligations.IdleChangesNothing :=
  ⟨fun s => ⟨_, exec_idle s, sameBuffer_quiet s, ⟨rfl, fun _ => rfl, rfl⟩, ⟨rfl, rfl⟩, (sameBuffer_quiet s).empty,
    (sameBuffer_quiet s).full, rfl⟩, fun _ => decode_of_idle (Req.rst_mk ..) (Req.rdEn_mk ..) (Req.wrEn_mk ..), rfl⟩

/-- Settles O12: the fields of the pushed buffer, and the requests. -/
theorem pushStoresAtHead : Obligations.PushStoresAtHead := by
  refine ⟨fun d => ⟨decode_mk_push d, encode_push d, rfl⟩, fun d i s hi => ⟨_, exec_push_or_rxEvent hi s,
    Memory.read_write_same .., fun a ha => Memory.read_write_other _ d ha, rfl, pushBlock_count_of_lt d,
    pushBlock_count_of_le d, rfl, rfl, ?_, full_iff _, rfl, ⟨rfl, fun _ => rfl, rfl⟩, ⟨rfl, rfl⟩⟩⟩
  rw [empty_eq_false_iff]
  exact pushBlock_count_pos d s

/-- Settles O13: the fields of the pushed buffer when `count = C`. -/
theorem pushOnFullOverwrites : Obligations.PushOnFullOverwrites := by
  intro d s g hfull
  have hcount : (s.pushBlock d).quiet.count = s.cap := pushBlock_count_of_le d hfull.ge
  exact ⟨_, exec_push d s, Memory.read_write_same .., fun a ha => Memory.read_write_other _ d ha, rfl,
    hcount.trans hfull.symm, rfl, (full_iff _).mpr hcount, rfl, rfl, ⟨rfl, fun _ => rfl, rfl⟩, ⟨rfl, rfl⟩,
    Ghost.lost_push_of_full d g hfull⟩

/-- Settles O14: the pop's result and the popped buffer, by whether there is a byte. -/
theorem popReturnsTailSlot : Obligations.PopReturnsTailSlot := by
  refine ⟨⟨fun d => decode_of_pop (Req.rst_mk ..) (Req.rdEn_mk ..) (Req.wrEn_mk ..), rfl, rfl⟩, fun i s hi =>
    ⟨_, exec_pop_or_receiveByte hi s, rfl, fun hc => ?_, fun v => memRead_of_read, fun hc => ?_, rfl, fun _ => rfl, rfl,
      rfl, fun _ => rfl, rfl, rfl⟩⟩
  · refine ⟨popResult_of_pos hc, popBlock_tail_of_pos hc, rfl, ?_, fun hle => ?_⟩
    · rw [empty_iff, handBack_count, popStep_count]
      omega
    · rw [full_eq_false_iff, handBack_count, handBack_cap, popStep_count, popStep_cap]
      omega
  · have hb := sameBuffer_handBack_popStep_of_zero (.popped s.popResult) hc
    exact ⟨popResult_of_zero hc, hb.tail, hb.count, hb.empty, hb.full⟩

/-! ### O52: the loop's pop after a late reset -/

/-- Settles O52: RESET leaves the call alone, and the loop's pop on an empty buffer hands EMPTY's data to the write. -/
theorem loopPopAfterALateReset : Obligations.LoopPopAfterALateReset := by
  refine ⟨fun c s hc _ => ⟨_, exec_reset s, hc, rfl⟩, fun size c s hc hp hzero => ?_⟩
  have hres := popResult_of_zero hzero
  have hexec : exec (.receiveString size) s =
      .next (s.popStep.setCall (some { c with phase := .write PopResult.empty.data })) := by
    rw [exec_receiveString_call size hc, ← hres]
    simp only [stringStep, hp, stringPop]
  exact ⟨_, hexec, (sameBuffer_popBlock_of_zero hzero).trans ⟨rfl, fun _ => rfl, rfl, rfl, rfl⟩, hres, rfl, fun _ => rfl,
    rfl, rfl, rfl⟩

end Sys2Proof.Machine
end

section
/-! The receive side's family of statements (41_uart_recv.md): AVAILABLE, receiveString's steps one by one, its overrun, and
whole calls. The facts the statements share stand first: the equations of a call's step, one per phase, and how far a call
that nobody interrupts has drained a buffer (`Drained`). -/

namespace Sys2Proof.Machine

/-! ### A call's step by its phase -/

section
variable {c : StringCall} {v : Byte}

theorem stringStep_of_test (s : State) (hp : c.phase = .test) : stringStep c s =
    .next (s.quiet.setCall (some { c with phase := if s.count = 0 then .terminate else .pop })) := by
  simp only [stringStep, hp, stringTest]

theorem stringStep_of_pop (s : State) (hp : c.phase = .pop) : stringStep c s =
    .next (s.popStep.setCall (some { c with phase := .write s.popResult.data })) := by
  simp only [stringStep, hp, stringPop]

theorem stringStep_of_write_lt (s : State) (hp : c.phase = .write v) (hn : c.n < c.size) : stringStep c s =
    .next ((s.dstWrite c.n v).quiet.setCall (some { c with n := c.n + 1, phase := .test })) := by
  simp only [stringStep, hp, stringWrite, if_pos hn]

theorem stringStep_of_terminate_lt (s : State) (hp : c.phase = .terminate) (hn : c.n < c.size) : stringStep c s =
    .next (((s.dstWrite c.n Config.terminator).quiet.setCall none).handBack (.length c.n)) := by
  simp only [stringStep, hp, stringTerminate, if_pos hn]

theorem stringStep_of_write_ge (s : State) (hp : c.phase = .write v) (hn : c.size ≤ c.n) :
    stringStep c s = .fault (.dstOverrun c.n c.size) := by
  simp only [stringStep, hp, stringWrite, if_neg hn.not_gt]

theorem stringStep_of_terminate_ge (s : State) (hp : c.phase = .terminate) (hn : c.size ≤ c.n) :
    stringStep c s = .fault (.dstOverrun c.n c.size) := by
  simp only [stringStep, hp, stringTerminate, if_neg hn.not_gt]

end

/-! ### O20: AVAILABLE -/

/-- receiveAvailable is AVAILABLE (R94). -/
theorem exec_available_or_receiveAvailable {i : Instr} (h : i = .available ∨ i = .receiveAvailable) (s : State) :
    exec i s = .next (s.quiet.handBack (.occupancy s.count)) := by
  rcases h with rfl | rfl <;> rfl

/-- Settles O20: `count` is handed back and nothing is written, so that a second step finds the same value. -/
theorem availableReturnsCount : Obligations.AvailableReturnsCount := by
  intro i s hi
  have hb : s.SameBuffer (s.quiet.handBack (.occupancy s.count)) := ⟨rfl, fun _ => rfl, rfl, rfl, rfl⟩
  exact ⟨_, exec_available_or_receiveAvailable hi s, rfl, hb, hb.empty, hb.full, rfl, fun _ => rfl, ⟨rfl, rfl⟩, _,
    exec_available_or_receiveAvailable hi _, rfl⟩

/-! ### O22 and O23: receiveString's steps -/

/-- Settles O22: a new call starts at its test, which finds the same `count`. -/
theorem receiveStringBeginsWithTheTest : Obligations.ReceiveStringBeginsWithTheTest := fun size _ hc =>
  ⟨_, exec_receiveString_begin size hc, rfl, fun _ => rfl, ⟨rfl, fun _ => rfl, rfl, rfl, rfl⟩, rfl, rfl, rfl, rfl⟩

/-- Settles O23: the equation of each phase. -/
theorem receiveStringTakesTheLoopsSteps : Obligations.ReceiveStringTakesTheLoopsSteps := by
  intro size c s hc
  rw [exec_receiveString_call size hc]
  refine ⟨fun hp => ?_, fun hp hpos => ?_, fun v hp hn => ?_, fun hp hn => ?_⟩
  · exact ⟨_, stringStep_of_test s hp, ⟨rfl, fun _ => rfl, rfl, rfl, rfl⟩, rfl, fun _ => rfl, rfl, rfl, rfl⟩
  · have hres := popResult_of_pos hpos
    refine ⟨_, stringStep_of_pop s hp, ?_, hres, popBlock_tail_of_pos hpos, rfl, rfl, fun _ => rfl, rfl, fun _ => rfl, rfl,
      rfl, rfl⟩
    rw [setCall_call, hres]
  · exact ⟨_, stringStep_of_write_lt s hp hn, ⟨rfl, fun _ => rfl, rfl, rfl, rfl⟩, Memory.read_write_same ..,
      fun k hk => Memory.read_write_other _ v hk, rfl, rfl, rfl, rfl⟩
  · exact ⟨_, stringStep_of_terminate_lt s hp hn, ⟨rfl, fun _ => rfl, rfl, rfl, rfl⟩, Memory.read_write_same ..,
      fun k hk => Memory.read_write_other _ _ hk, rfl, rfl, rfl, rfl⟩

/-! ### O24: the overrun -/

theorem exec_receiveString_fault {size : Nat} {s : State} {f : Fault} (h : exec (.receiveString size) s = .fault f) :
    ∃ c, s.call = some c ∧ stringStep c s = .fault f := by
  cases hc : s.call with
  | none =>
    rw [exec_receiveString_begin size hc] at h
    cases h
  | some c => exact ⟨c, rfl, exec_receiveString_call size hc ▸ h⟩

/-- Only receiveString can fault. -/
theorem exists_receiveString_of_exec_fault {i : Instr} {s : State} {f : Fault} (h : exec i s = .fault f) :
    ∃ size, i = .receiveString size := by
  by_contra hi
  obtain ⟨t, ht⟩ := exec_next_of_ne_receiveString (not_exists.mp hi) s
  rw [ht] at h
  cases h

/-- Settles O24: the two writes outside the destination fault, and only a step of a call that makes one does. -/
theorem overrunIsTheOnlyFault : Obligations.OverrunIsTheOnlyFault := by
  refine ⟨fun size c s hc hn hp => ?_, fun i s f h => ?_⟩
  · rw [exec_receiveString_call size hc]
    rcases hp with hp | ⟨v, hp⟩
    · exact stringStep_of_terminate_ge s hp hn
    · exact stringStep_of_write_ge s hp hn
  · obtain ⟨size, rfl⟩ := exists_receiveString_of_exec_fault h
    obtain ⟨c, hc, hf⟩ := exec_receiveString_fault h
    obtain ⟨hn, rfl, hp⟩ := stringStep_fault hf
    exact ⟨size, c, rfl, hc, hn, rfl, hp⟩

/-! ### O29: between the test and the pop -/

/-- A call's step comes to its pop from a test that found a byte, and from nowhere else. -/
theorem stringStep_popReady {c : StringCall} {s t : State} (h : stringStep c s = .next t) : t.PopReady := by
  intro c' hc' hp'
  rcases stringStep_next h with ⟨-, rfl⟩ | ⟨-, rfl⟩ | ⟨v, -, -, rfl⟩ | ⟨-, -, rfl⟩
  · cases hc'
    by_contra hzero
    simp [show s.count = 0 from Nat.eq_zero_of_not_pos hzero] at hp'
  · cases hc'
    cases hp'
  · cases hc'
    cases hp'
  · cases hc'

theorem exec_receiveString_popReady {n : Nat} {s t : State} (h : exec (.receiveString n) s = .next t) : t.PopReady := by
  cases hc : s.call with
  | none =>
    rw [exec_receiveString_begin n hc] at h
    exact stringStep_popReady (c := ⟨n, 0, .test⟩) h
  | some c =>
    rw [exec_receiveString_call n hc] at h
    exact stringStep_popReady h

/-- With no call in progress the pop of a call is not to come. -/
theorem popReady_of_no_call {s : State} (h : s.call = none) : s.PopReady := fun c hc => by simp [h] at hc

/-- A consumer's operation other than receiveString is performed only outside a call (log entry 8). -/
theorem exec_popReady {i : Instr} {s t : State} (h : s.PopReady) (hreset : i ≠ .reset)
    (hw : i.byConsumer = true → s.call = none ∨ ∃ n, i = .receiveString n) (ht : exec i s = .next t) : t.PopReady := by
  cases i with
  | reset => exact absurd rfl hreset
  | idle | available | receiveAvailable => cases ht; exact h
  | push d | rxEvent d => cases ht; exact fun _ _ _ => pushBlock_count_pos d s
  | pop | receiveByte => cases ht; exact popReady_of_no_call ((hw rfl).resolve_right (by simp))
  | pushPop d =>
    cases ht
    exact popReady_of_no_call ((pushPopBlock_call ..).trans ((hw rfl).resolve_right (by simp)))
  | receiveString n => exact exec_receiveString_popReady ht

theorem no_call_or_foregroundInstr_eq_receiveString (s : State) : s.call = none ∨ ∃ n, s.foregroundInstr = .receiveString n := by
  cases hc : s.call with
  | none => exact .inl rfl
  | some c => exact .inr ⟨_, foregroundInstr_of_call hc⟩

/-- A consumer's operation that a step performs is receiveString, or no call is in progress. -/
theorem fetch_consumer {s : State} (h : s.fetch.1.byConsumer = true) :
    s.fetch.2.call = none ∨ ∃ n, s.fetch.1 = .receiveString n := by
  rcases fetch_cases s with hf | ⟨p, rest, -, hw, hf⟩
  · rw [hf]
    exact no_call_or_foregroundInstr_eq_receiveString s
  · rw [hf] at h ⊢
    cases p with
    | request r =>
      exact .inl (by_contra fun hcall => Bool.false_ne_true (hw.symm.trans (mustWait_request.mpr ⟨hcall, h⟩)))
    | op i => exact .inl (by_contra fun hcall => Bool.false_ne_true (hw.symm.trans (mustWait_op.mpr ⟨hcall, h⟩)))
    | turn => exact no_call_or_foregroundInstr_eq_receiveString s

theorem fetch_snd_popReady {s : State} (h : s.PopReady) : s.fetch.2.PopReady := by
  obtain ⟨p, hp⟩ := fetch_snd_eq s
  rw [hp]
  exact h

/-- Settles O29: every operation but RESET keeps a byte for the call's pop, since a consumer's operation waits. -/
theorem loopPopFindsAByte : Obligations.LoopPopFindsAByte := by
  refine ⟨fun s t h hreset ht => exec_popReady (fetch_snd_popReady h) hreset fetch_consumer ht,
    fun s c h hc hp => ?_⟩
  rw [popResult_of_pos (h c hc hp)]

/-! ### A call that nobody interrupts -/

/-- `u` is `s` after `p` pops and with its first `m` bytes, in the order pops return them, in a destination that lists nothing
else; nothing is presented. -/
structure Drained (s : State) (p m : Nat) (u : State) : Prop where
  pending : u.pending = []
  log2Cap : u.log2Cap = s.log2Cap
  storage : u.storage = s.storage
  head : u.head = s.head
  tail : u.tail = (s.tail + p) % s.cap
  count : u.count = s.count - p
  written : ∀ k, k < m → Memory.read u.dst k = some (s.memRead ((s.tail + k) % s.cap))
  unwritten : ∀ k, m ≤ k → Memory.read u.dst k = none

section
variable {s u : State} {size p m : Nat}

theorem Drained.count_pos (h : Drained s p m u) (hp : p < s.count) : 0 < u.count := by
  rw [h.count]
  exact Nat.sub_pos_of_lt hp

/-- The slot that pop number `p` reads. -/
theorem Drained.popResult (h : Drained s p m u) (hp : p < s.count) :
    u.popResult = ⟨true, s.memRead ((s.tail + p) % s.cap)⟩ := by
  rw [popResult_of_pos (h.count_pos hp), State.memRead, h.storage, h.tail, State.memRead]

/-- The loop's pop (R96). -/
theorem Drained.pop (h : Drained s p m u) (hp : p < s.count) (hc : u.call = some ⟨size, m, .pop⟩) :
    ∃ t, step u = .next t ∧ Drained s (p + 1) m t ∧
      t.call = some ⟨size, m, .write (s.memRead ((s.tail + p) % s.cap))⟩ := by
  have hcap : u.cap = s.cap := by simp [State.cap, h.log2Cap]
  have htail : u.popBlock.tail = (s.tail + (p + 1)) % s.cap := by
    rw [popBlock_tail_of_pos (h.count_pos hp), State.succIndex, hcap, h.tail, Nat.mod_add_mod, Nat.add_assoc]
  have hcount : u.popBlock.count = s.count - (p + 1) := by rw [popBlock_count, h.count, Nat.sub_sub]
  refine ⟨_, (step_of_nothing h.pending hc).trans (stringStep_of_pop u rfl),
    ⟨h.pending, h.log2Cap, h.storage, h.head, htail, hcount, h.written, h.unwritten⟩, ?_⟩
  rw [setCall_call, h.popResult hp]

/-- The loop's write of the byte (R96). -/
theorem Drained.write (h : Drained s (m + 1) m u) (hm : m < size)
    (hc : u.call = some ⟨size, m, .write (s.memRead ((s.tail + m) % s.cap))⟩) :
    ∃ t, step u = .next t ∧ Drained s (m + 1) (m + 1) t ∧ t.call = some ⟨size, m + 1, .test⟩ := by
  refine ⟨_, (step_of_nothing h.pending hc).trans (stringStep_of_write_lt u rfl hm),
    ⟨h.pending, h.log2Cap, h.storage, h.head, h.tail, h.count, fun k hk => ?_, fun k hk => ?_⟩, rfl⟩
  · rcases Nat.lt_succ_iff_lt_or_eq.mp hk with hlt | rfl
    · exact (Memory.read_write_other _ _ hlt.ne).trans (h.written k hlt)
    · exact Memory.read_write_same ..
  · exact (Memory.read_write_other _ _ (Nat.ne_of_gt hk)).trans (h.unwritten k (Nat.le_of_succ_le hk))

/-- The loop's test (R96). -/
theorem Drained.test (h : Drained s p m u) (hc : u.call = some ⟨size, m, .test⟩) :
    ∃ t, step u = .next t ∧ Drained s p m t ∧
      t.call = some ⟨size, m, if s.count - p = 0 then .terminate else .pop⟩ := by
  refine ⟨_, (step_of_nothing h.pending hc).trans (stringStep_of_test u rfl),
    ⟨h.pending, h.log2Cap, h.storage, h.head, h.tail, h.count, h.written, h.unwritten⟩, ?_⟩
  rw [setCall_call, h.count]

/-- One round of the loop, from a test that found a byte to the next test's outcome. -/
theorem Drained.round (h : Drained s m m u) (hm : m < s.count) (hsize : m < size)
    (hc : u.call = some ⟨size, m, .pop⟩) :
    ∃ t, runSteps 3 u = .next t ∧ Drained s (m + 1) (m + 1) t ∧
      t.call = some ⟨size, m + 1, if s.count - (m + 1) = 0 then .terminate else .pop⟩ := by
  obtain ⟨a, hstepa, ha, hca⟩ := h.pop hm hc
  obtain ⟨b, hstepb, hb, hcb⟩ := ha.write hsize hca
  obtain ⟨t, hstept, ht, hct⟩ := hb.test hcb
  refine ⟨t, ?_, ht, hct⟩
  rw [runSteps_succ 2 hstepa, runSteps_succ 1 hstepb, runSteps_succ 0 hstept, runSteps]

/-- The call's first step opens it and makes the loop's first test. -/
theorem drained_begin (ht : s.tail < s.cap) (hcall : s.call = none) (hpend : s.pending = [.op (.receiveString size)]) :
    ∃ u, step s = .next u ∧ Drained s 0 0 u ∧
      u.call = some ⟨size, 0, if s.count = 0 then .terminate else .pop⟩ := by
  have hstep : step s = exec (.receiveString size) { s with pending := [] } :=
    step_of_not_mustWait hpend fun hw => (mustWait_op.mp hw).1 hcall
  refine ⟨_, hstep.trans (exec_receiveString_begin size hcall), ⟨rfl, rfl, rfl, rfl, ?_, rfl, ?_, fun _ _ => rfl⟩, rfl⟩
  · exact (Nat.mod_eq_of_lt ht).symm
  · exact fun k hk => absurd hk k.not_lt_zero

/-- The first step and `m` rounds of the loop (R96), while there are bytes and room for them. -/
theorem drained_rounds (ht : s.tail < s.cap) (hcall : s.call = none) (hpend : s.pending = [.op (.receiveString size)])
    (hm : m ≤ s.count) (hsize : m ≤ size) :
    ∃ u, runSteps (3 * m + 1) s = .next u ∧ Drained s m m u ∧
      u.call = some ⟨size, m, if s.count - m = 0 then .terminate else .pop⟩ := by
  induction m with
  | zero =>
    obtain ⟨u, hstep, hu, hcu⟩ := drained_begin ht hcall hpend
    exact ⟨u, runSteps_succ 0 hstep, hu, hcu⟩
  | succ m ih =>
    obtain ⟨u, hrun, hu, hcu⟩ := ih (Nat.le_of_succ_le hm) (Nat.le_of_succ_le hsize)
    rw [if_neg (by omega)] at hcu
    obtain ⟨t, hround, hnext⟩ := hu.round hm hsize hcu
    exact ⟨t, (runSteps_add 3 hrun).trans hround, hnext⟩

end

/-! ### O25, O26, O27: whole calls -/

/-- receiveString on a buffer of `count` bytes with room for them and the terminator (R96). -/
theorem runSteps_receiveString {s : State} {size : Nat} (ht : s.tail < s.cap) (hcall : s.call = none)
    (hpend : s.pending = [.op (.receiveString size)]) (hsize : s.count < size) :
    ∃ u, Drained s s.count s.count u ∧ runSteps (3 * s.count + 2) s =
      .next (((u.dstWrite s.count Config.terminator).quiet.setCall none).handBack (.length s.count)) := by
  obtain ⟨u, hrun, hu, hcu⟩ := drained_rounds ht hcall hpend le_rfl hsize.le
  rw [if_pos (Nat.sub_self _)] at hcu
  have hend := (step_of_nothing hu.pending hcu).trans (stringStep_of_terminate_lt u rfl hsize)
  exact ⟨u, hu, (runSteps_add 1 hrun).trans (runSteps_succ 0 hend)⟩

/-- Settles O25: the fields of the drained state, and the terminator after its bytes. -/
theorem receiveStringDrainsTheBuffer : Obligations.ReceiveStringDrainsTheBuffer := by
  intro size s hinv hcall hpend hsize
  obtain ⟨u, hu, hrun⟩ := runSteps_receiveString hinv.tail_lt hcall hpend hsize
  have hzero : u.count = 0 := hu.count.trans (Nat.sub_self _)
  refine ⟨_, hrun, rfl, rfl, hzero, (empty_iff _).mpr hzero, hu.tail, hu.head, fun a => ?_, fun k hk => ?_,
    popResults_eq_map_range hinv.tail_lt le_rfl, Memory.read_write_same .., fun k hk => ?_⟩
  · exact congrArg (Memory.read · a) hu.storage
  · exact (Memory.read_write_other _ _ hk.ne).trans (hu.written k hk)
  · exact (Memory.read_write_other _ _ hk.ne').trans (hu.unwritten k hk.le)

/-- Settles O26: `size` rounds of the loop; then the terminator overruns, or a pop and the write of its byte. -/
theorem receiveStringOverrunsASmallDestination : Obligations.ReceiveStringOverrunsASmallDestination := by
  intro size s hinv hcall hpend hsize
  obtain ⟨u, hrun, hu, hcu⟩ := drained_rounds hinv.tail_lt hcall hpend hsize le_rfl
  rcases hsize.eq_or_lt with heq | hlt
  · rw [if_pos (by omega)] at hcu
    refine ⟨_, u, hrun, (step_of_nothing hu.pending hcu).trans (stringStep_of_terminate_ge u rfl le_rfl), ?_, hu.written,
      hu.unwritten⟩
    rw [hu.count]
    omega
  · rw [if_neg (by omega)] at hcu
    obtain ⟨t, hstep, ht, hct⟩ := hu.pop hlt hcu
    refine ⟨_, t, (runSteps_add 1 hrun).trans (runSteps_succ 0 hstep),
      (step_of_nothing ht.pending hct).trans (stringStep_of_write_ge t rfl le_rfl), ?_, ht.written, ht.unwritten⟩
    rw [ht.count, Nat.min_eq_right hlt]

@[simp] theorem pushAll_call (bytes : List Byte) (s : State) : (s.pushAll bytes).call = s.call := by
  induction bytes generalizing s with
  | nil => rfl
  | cons d ds ih => simp [ih]

@[simp] theorem pushAll_pending (bytes : List Byte) (s : State) : (s.pushAll bytes).pending = s.pending := by
  induction bytes generalizing s with
  | nil => rfl
  | cons d ds ih => simp [ih]

/-- An RX event never waits, whether a call is in progress or not (R96, log entry 8). -/
theorem step_of_rxEvent {s : State} {b : Byte} {rest : List Presented} (hp : s.pending = .op (.rxEvent b) :: rest) :
    step s = .next (State.pushBlock b { s with pending := rest }).quiet :=
  step_of_not_mustWait hp fun hw => Bool.noConfusion (mustWait_op.mp hw).2

/-- The steps of a row of RX events are a row of pushes. -/
theorem runSteps_rxEvents {s : State} {bytes : List Byte} {rest : List Presented}
    (hp : s.pending = bytes.map (fun b => Presented.op (.rxEvent b)) ++ rest) :
    runSteps bytes.length s = .next (State.pushAll bytes { s with pending := rest }) := by
  induction bytes generalizing s with
  | nil =>
    rw [List.map_nil, List.nil_append] at hp
    simp [runSteps, ← hp]
  | cons b bs ih =>
    rw [List.length_cons, runSteps_succ _ (step_of_rxEvent hp), ih rfl]
    rfl

/-- With `L mod C = 0` the indices of an empty buffer meet. -/
theorem Linked.head_eq_tail_of_aligned {s : State} {g : Ghost} (h : Linked s g) (hlost : g.lost % s.cap = 0)
    (hc : s.count = 0) : s.head = s.tail := by
  rw [h.pointer_relation, hc, Nat.add_zero, Nat.add_mod, hlost, Nat.add_zero, Nat.mod_mod, Nat.mod_eq_of_lt h.tail_lt]

/-- From an aligned empty buffer at most `C` pushes and then receiveString give the bytes back. -/
theorem runSteps_receiveString_pushAll {s : State} {bytes : List Byte} {size : Nat} (hh : s.head < s.cap)
    (hc : s.count = 0) (halign : s.head = s.tail) (hcall : s.call = none)
    (hpend : s.pending = [.op (.receiveString size)]) (hlen : bytes.length ≤ s.cap) (hsize : bytes.length < size) :
    ∃ t, runSteps (3 * bytes.length + 2) (s.pushAll bytes) = .next t ∧ t.ret = .length bytes.length ∧ t.count = 0 ∧
      t.call = none ∧ (∀ k, k < bytes.length → Memory.read t.dst k = bytes[k]?) ∧
      Memory.read t.dst bytes.length = some 0x00 := by
  have htail : (s.pushAll bytes).tail < (s.pushAll bytes).cap := by
    rw [pushAll_tail, pushAll_cap, ← halign]
    exact hh
  have hcount : (s.pushAll bytes).count = bytes.length := by
    rw [pushAll_count bytes (by omega), hc, Nat.zero_add, min_eq_left hlen]
  obtain ⟨u, hu, hrun⟩ := runSteps_receiveString htail ((pushAll_call ..).trans hcall)
    ((pushAll_pending ..).trans hpend) (hcount.trans_lt hsize)
  rw [hcount] at hu hrun
  refine ⟨_, hrun, rfl, hu.count.trans (Nat.sub_eq_zero_of_le hcount.le), rfl, fun k hk => ?_,
    Memory.read_write_same ..⟩
  have hread := (read_pushAll hh hk (by omega)).trans (List.getElem?_eq_getElem hk)
  have hslot := hu.written k hk
  rw [pushAll_tail, pushAll_cap, ← halign, memRead_of_read hread] at hslot
  rw [List.getElem?_eq_getElem hk]
  exact (Memory.read_write_other _ _ hk.ne).trans hslot

/-- Settles O27: the RX events put the text in the slots from `tail` on, and receiveString drains them. -/
theorem receivedTextComesBack : Obligations.ReceivedTextComesBack := by
  intro s g bytes size hr hlost hzero hcall hlen hsize hpend
  have hl := hr.linked
  have halign := hl.head_eq_tail_of_aligned hlost hzero
  obtain ⟨t, hrun, ht⟩ := runSteps_receiveString_pushAll (s := { s with pending := [.op (.receiveString size)] })
    (halign.trans_lt hl.tail_lt) hzero halign hcall rfl hlen hsize
  refine ⟨t, ?_, ht⟩
  rw [show 4 * bytes.length + 2 = bytes.length + (3 * bytes.length + 2) by omega,
    runSteps_add _ (runSteps_rxEvents hpend), hrun]

/-! ### O28: a producer that keeps pushing -/

section
variable {s : State} {size n : Nat} {rest : List Presented}

/-- After an RX event there is a byte, and the call is where it was. -/
theorem step_rxEvent {b : Byte} (hp : s.pending = .op (.rxEvent b) :: rest) :
    ∃ t, step s = .next t ∧ t.call = s.call ∧ t.pending = rest ∧ 0 < t.count :=
  ⟨_, step_of_rxEvent hp, rfl, rfl, pushBlock_count_pos b _⟩

theorem step_turn_test (hp : s.pending = .turn :: rest) (hc : s.call = some ⟨size, n, .test⟩) (hpos : 0 < s.count) :
    ∃ t, step s = .next t ∧ t.call = some ⟨size, n, .pop⟩ ∧ t.pending = rest := by
  refine ⟨_, (step_of_turn hp hc).trans (stringStep_of_test _ rfl), ?_, rfl⟩
  rw [setCall_call, if_neg hpos.ne']

theorem step_turn_pop (hp : s.pending = .turn :: rest) (hc : s.call = some ⟨size, n, .pop⟩) :
    ∃ t v, step s = .next t ∧ t.call = some ⟨size, n, .write v⟩ ∧ t.pending = rest :=
  ⟨_, _, (step_of_turn hp hc).trans (stringStep_of_pop _ rfl), rfl, rfl⟩

theorem step_turn_write {v : Byte} (hp : s.pending = .turn :: rest) (hc : s.call = some ⟨size, n, .write v⟩)
    (hn : n < size) : ∃ t, step s = .next t ∧ t.call = some ⟨size, n + 1, .test⟩ ∧ t.pending = rest :=
  ⟨_, (step_of_turn hp hc).trans (stringStep_of_write_lt _ rfl hn), rfl, rfl⟩

/-- An RX event before the test, and the three steps of a round, in which `n` rises by one (R98). -/
theorem runSteps_starve_round {b : Byte} (hp : s.pending = .op (.rxEvent b) :: .turn :: .turn :: .turn :: rest)
    (hc : s.call = some ⟨size, n, .test⟩) (hn : n < size) :
    ∃ t, runSteps 4 s = .next t ∧ t.call = some ⟨size, n + 1, .test⟩ ∧ t.pending = rest := by
  obtain ⟨r, hrx, hcr, hpr, hpos⟩ := step_rxEvent hp
  obtain ⟨u, htest, hcu, hpu⟩ := step_turn_test hpr (hcr.trans hc) hpos
  obtain ⟨w, v, hpop, hcw, hpw⟩ := step_turn_pop hpu hcu
  obtain ⟨t, hwrite, ht⟩ := step_turn_write hpw hcw hn
  refine ⟨t, ?_, ht⟩
  rw [runSteps_succ 3 hrx, runSteps_succ 2 htest, runSteps_succ 1 hpop, runSteps_succ 0 hwrite, runSteps]

end

/-- Settles O28: one round of the schedule after another. -/
theorem receiveStringNeedNotReturn : Obligations.ReceiveStringNeedNotReturn := by
  intro k
  induction k with
  | zero => exact fun b size n s hc _ hp => ⟨s, rfl, hc, hp⟩
  | succ k ih =>
    intro b size n s hc hn hp
    obtain ⟨u, hround, hcu, hpu⟩ := runSteps_starve_round hp hc (by omega)
    obtain ⟨t, hrun, hct, hpt⟩ := ih b size (n + 1) u hcu (by omega) hpu
    refine ⟨t, ?_, by rw [hct, Nat.add_right_comm, Nat.add_assoc], hpt⟩
    rw [Nat.mul_succ, Nat.add_comm, runSteps_add _ hround, hrun]

end Sys2Proof.Machine
end

section
/-! The family of the transmit path and the divisor (42_transmit_platform.md). A call of `sendByte` has two outcomes, and a
call of `sendString` on a text with its zero byte has two as well; each is said once (`sendByte_cases`,
`sendString_terminated_cases`). -/

namespace Sys2Proof.Machine

/-! ### O49: one byte -/

@[simp] theorem sendByte_nil (b : Byte) : sendByte b [] = ([], .waiting) := rfl

@[simp] theorem sendByte_true (b : Byte) (polls : List Bool) :
    sendByte b (true :: polls) = ([b], .returned polls) := rfl

@[simp] theorem sendByte_false (b : Byte) (polls : List Bool) :
    sendByte b (false :: polls) = sendByte b polls := rfl

/-- A call that has polled 0 any number of times is where it was (R105). -/
theorem sendByte_replicate_false_append (b : Byte) (n : Nat) (polls : List Bool) :
    sendByte b (List.replicate n false ++ polls) = sendByte b polls := by
  induction n with
  | zero => rfl
  | succ n ih => rw [List.replicate_succ, List.cons_append, sendByte_false, ih]

/-- Settles O49: polls answered 0 do nothing, so the call waits where no poll is left and writes at the next 1. -/
theorem sendByteWaitsForTheRegister : Obligations.SendByteWaitsForTheRegister := by
  refine ⟨fun b n => ?_, fun b n polls => ?_⟩
  · simpa using sendByte_replicate_false_append b n []
  · rw [sendByte_replicate_false_append, sendByte_true]

/-! ### O50: a text -/

/-- Whatever the polls answer, `sendByte` waits with nothing written or returns with its byte written. -/
theorem sendByte_cases (b : Byte) (polls : List Bool) :
    sendByte b polls = ([], .waiting) ∨ ∃ left, sendByte b polls = ([b], .returned left) := by
  induction polls with
  | nil => exact .inl (sendByte_nil b)
  | cons answer polls ih =>
    cases answer
    · rwa [sendByte_false]
    · exact .inr ⟨polls, sendByte_true b polls⟩

@[simp] theorem sendString_terminator (text : List Byte) (polls : List Bool) :
    sendString (Config.terminator :: text) polls = ([], .returned polls) := rfl

section
variable {b : Byte} {polls : List Bool}

theorem sendString_cons_of_waiting (text : List Byte) (hb : b ≠ Config.terminator) (h : sendByte b polls = ([], .waiting)) :
    sendString (b :: text) polls = ([], .waiting) := by
  rw [sendString, if_neg hb, h]

theorem sendString_cons_of_returned {left : List Bool} (text : List Byte) (hb : b ≠ Config.terminator)
    (h : sendByte b polls = ([b], .returned left)) :
    sendString (b :: text) polls = (b :: (sendString text left).1, (sendString text left).2) := by
  rw [sendString, if_neg hb, h]
  rfl

end

/-- A text with its zero byte is sent whole when the call returns; otherwise the call waits at one of its bytes (R106). -/
theorem sendString_terminated_cases {text : List Byte} (rest : List Byte) (hz : (0x00 : Byte) ∉ text)
    (polls : List Bool) :
    (∃ left, sendString (text ++ 0x00 :: rest) polls = (text, .returned left)) ∨
    ∃ sent, sent <+: text ∧ sendString (text ++ 0x00 :: rest) polls = (sent, .waiting) := by
  induction text generalizing polls with
  | nil => exact .inl ⟨polls, sendString_terminator rest polls⟩
  | cons b text ih =>
    obtain ⟨hb, hz⟩ := List.ne_and_not_mem_of_not_mem_cons hz
    rw [List.cons_append]
    rcases sendByte_cases b polls with hwait | ⟨left, hret⟩
    · exact .inr ⟨[], List.nil_prefix, sendString_cons_of_waiting _ hb.symm hwait⟩
    · rw [sendString_cons_of_returned _ hb.symm hret]
      rcases ih hz left with ⟨left', hall⟩ | ⟨sent, hsent, hpart⟩
      · exact .inl ⟨left', by rw [hall]⟩
      · exact .inr ⟨b :: sent, (List.prefix_cons_inj b).mpr hsent, by rw [hpart]⟩

/-- Settles O50: the two outcomes of a terminated text; the program-memory variant sends the decoded elements by
definition (R107). -/
theorem sendStringSendsUpToTheTerminator : Obligations.SendStringSendsUpToTheTerminator := by
  refine ⟨fun text rest polls hz => ?_, fun _ _ _ _ => rfl⟩
  rcases sendString_terminated_cases rest hz polls with ⟨left, hall⟩ | ⟨sent, hsent, hpart⟩
  · rw [hall]
    exact ⟨List.prefix_rfl, fun _ _ => rfl⟩
  · rw [hpart]
    exact ⟨hsent, fun _ hret => by cases hret⟩

/-! ### O51: the divisor -/

theorem baudDivisor_of_pos (clock : Nat) {baud : Nat} (h : 0 < baud) :
    baudDivisor clock baud = ((clock / (16 * baud) : Nat) : Int) - 1 :=
  if_neg h.ne'

/-- Settles O51: the bounds on the clock say that `q` is the truncated quotient. -/
theorem divisorTruncates : Obligations.DivisorTruncates := by
  intro clock baud q hpos hle hlt
  have hq : clock / (16 * baud) = q := Nat.div_eq_of_lt_le hle hlt
  rw [baudDivisor_of_pos clock hpos, hq]

end Sys2Proof.Machine
end

section
/-! The family of the exceptions (60_exceptions.md): which operations can fail to answer a next state, and with what. -/

namespace Sys2Proof.Machine

/-! ### O31: no operation is refused -/

/-- Each phase of a call answers a next state, or the overrun where it writes outside the destination (R96, R97). -/
theorem stringStep_ne_refused (c : StringCall) (s : State) (r : Refusal) : stringStep c s ≠ .refused r := by
  cases hp : c.phase with
  | test => simp [stringStep_of_test s hp]
  | pop => simp [stringStep_of_pop s hp]
  | write v =>
    rcases lt_or_ge c.n c.size with hn | hn
    · simp [stringStep_of_write_lt s hp hn]
    · simp [stringStep_of_write_ge s hp hn]
  | terminate =>
    rcases lt_or_ge c.n c.size with hn | hn
    · simp [stringStep_of_terminate_lt s hp hn]
    · simp [stringStep_of_terminate_ge s hp hn]

theorem exec_receiveString_ne_refused (size : Nat) (s : State) (r : Refusal) :
    exec (.receiveString size) s ≠ .refused r := by
  cases hc : s.call with
  | none => simp [exec_receiveString_begin size hc, stringTest]
  | some c => simpa only [exec_receiveString_call size hc] using stringStep_ne_refused c s r

/-- Every operation has its meaning: none is refused in any state (R120). -/
theorem exec_ne_refused (i : Instr) (s : State) (r : Refusal) : exec i s ≠ .refused r := by
  by_cases hi : ∃ size, i = .receiveString size
  · obtain ⟨size, rfl⟩ := hi
    exact exec_receiveString_ne_refused size s r
  · obtain ⟨t, ht⟩ := exec_next_of_ne_receiveString (not_exists.mp hi) s
    simp [ht]

/-- Settles O31: a step is the meaning of one operation, and of these only receiveString can fail to answer a next state,
by the overrun. -/
theorem everyOperationIsAlwaysEnabled : Obligations.EveryOperationIsAlwaysEnabled := by
  refine ⟨fun _ s hi => exec_next_of_ne_receiveString hi s, fun s f h => ?_, fun s => exec_ne_refused _ s.fetch.2⟩
  obtain ⟨_, c, _, _, hn, hf, _⟩ := overrunIsTheOnlyFault.2 s.fetch.1 s.fetch.2 f h
  exact ⟨c.n, c.size, hf, hn⟩

end Sys2Proof.Machine
end

section
/-! The family of the reset and the hazards (70_reset_and_hazards.md): what a minimal critical section must not let through. -/

namespace Sys2Proof.Machine

/-! ### O19: the half-done pop -/

/-- On a full buffer whose indices meet, push first writes over the oldest byte before the pop reads it, so the pop
returns the new byte (R73, R76). -/
theorem pushPopResult_pushFirst_of_head_eq_tail {s : State} (d : Byte) (hle : s.count ≤ s.cap)
    (hmeet : s.head = s.tail) : s.pushPopResult .pushFirst d = ⟨true, d⟩ := by
  rw [(pushPop_pushFirst d hle).1, if_pos hmeet]

/-- On a full buffer pop first makes the room that the push then takes, so the buffer is full again (R76). -/
theorem pushPopBlock_popFirst_count_of_full {s : State} (d : Byte) (hfull : s.count = s.cap) :
    (s.pushPopBlock .popFirst d).count = s.cap := by
  obtain ⟨-, -, hcount⟩ := pushPop_popFirst_of_pos d hfull.le (hfull ▸ cap_pos s)
  exact hcount.trans hfull

/-- Settles O19, by the order taken: push first does not return the old byte, pop first leaves the buffer full. -/
theorem noHalfDonePopIsSeen : Obligations.NoHalfDonePopIsSeen := by
  intro d s t hfull hmeet hne ht hrsp
  cases (exec_pushPop d s).symm.trans ht
  have hold : s.pushPopResult s.order d = ⟨true, s.memRead s.tail⟩ := hrsp
  change (s.pushPopBlock s.order d).count = (s.pushPopBlock s.order d).cap
  rw [pushPopBlock_cap]
  cases ho : s.order with
  | pushFirst =>
    rw [ho, pushPopResult_pushFirst_of_head_eq_tail d hfull.le hmeet] at hold
    exact absurd (congrArg PopResult.data hold) hne
  | popFirst => exact pushPopBlock_popFirst_count_of_full d hfull

end Sys2Proof.Machine
end

section
/-! The statements of no other family: the canonical spelling of a request as a function of the request itself
(`Req.canonical`), the words of V10, and the first operation after reset. -/

namespace Sys2Proof

/-! ### O4: the canonical spelling -/

/-- A request with its ignored bits cleared: `rst` keeps no other field, and `wr_data` stays only with `wr_en` (R54). -/
def Req.canonical (r : Req) : Req :=
  match Req.rst r, Req.wrEn r with
  | true, _ => Req.mk true false false 0
  | false, false => Req.mk false (Req.rdEn r) false 0
  | false, true => Req.mk false (Req.rdEn r) true (Req.wrData r)

section
variable {r : Req}

theorem Req.canonical_of_rst (h : Req.rst r = true) : Req.canonical r = Req.mk true false false 0 := by
  rw [Req.canonical, h]

theorem Req.canonical_of_not_wrEn (h : Req.rst r = false) (hw : Req.wrEn r = false) :
    Req.canonical r = Req.mk false (Req.rdEn r) false 0 := by
  rw [Req.canonical, h, hw]

theorem Req.canonical_of_wrEn (h : Req.rst r = false) (hw : Req.wrEn r = true) :
    Req.canonical r = Req.mk false (Req.rdEn r) true (Req.wrData r) := by
  rw [Req.canonical, h, hw]

end

theorem encode_decode (r : Req) : encode (decode r) = some (Req.canonical r) := by
  cases h : Req.rst r with
  | true =>
    rw [decode_of_rst h, Req.canonical_of_rst h]
    rfl
  | false =>
    cases hw : Req.wrEn r with
    | false =>
      rw [Req.canonical_of_not_wrEn h hw]
      cases hr : Req.rdEn r with
      | false => rw [decode_of_idle h hr hw]; rfl
      | true => rw [decode_of_pop h hr hw]; rfl
    | true =>
      rw [Req.canonical_of_wrEn h hw]
      cases hr : Req.rdEn r with
      | false => rw [decode_of_push h hr hw]; rfl
      | true => rw [decode_of_pushPop h hr hw]; rfl

/-- Every 1 bit of the canonical spelling stands in the request. -/
theorem Req.canonical_and (r : Req) : Req.canonical r &&& r = Req.canonical r := by
  cases h : Req.rst r with
  | true =>
    rw [Req.canonical_of_rst h]
    exact Req.eq_of_fields (by simp [h]) (by simp) (by simp) (by simp)
  | false =>
    cases hw : Req.wrEn r with
    | false =>
      rw [Req.canonical_of_not_wrEn h hw]
      exact Req.eq_of_fields (by simp) (by simp) (by simp) (by simp)
    | true =>
      rw [Req.canonical_of_wrEn h hw]
      exact Req.eq_of_fields (by simp) (by simp) (by simp [hw]) (by simp)

/-- Settles O4: requests of one operation have one canonical spelling, and each has that spelling's 1 bits. -/
theorem decodeThenEncodeIsCanonical : Obligations.DecodeThenEncodeIsCanonical := by
  intro r
  refine ⟨Req.canonical r, encode_decode r,
    (decode_encode (encode_decode r)).trans (Instr.expand_of_wf (decode_wf r)), fun r' hr' => ?_⟩
  have hsame : Req.canonical r = Req.canonical r' :=
    Option.some.inj (by rw [← encode_decode, ← encode_decode, hr'])
  rw [hsame, Req.canonical_and]

/-! ### O1: the words of V10 -/

/-- Settles O1: each word by its three bits `req[10:8]`. -/
theorem specWordsDecode : Obligations.SpecWordsDecode :=
  ⟨decode_of_idle rfl rfl rfl, decode_of_idle rfl rfl rfl, decode_of_push rfl rfl rfl, decode_of_push rfl rfl rfl,
    decode_of_pop rfl rfl rfl, decode_of_pushPop rfl rfl rfl, decode_of_rst rfl, decode_of_rst rfl, decode_of_rst rfl⟩

end Sys2Proof

namespace Sys2Proof.Machine

/-! ### O10: the first operation after reset -/

/-- Settles O10: after reset `count` is 0, so the pop finds nothing, and `head` is 0, so slot 0 takes the byte. -/
theorem usableRightAfterReset : Obligations.UsableRightAfterReset := fun w =>
  ⟨⟨_, exec_available _, congrArg Ret.occupancy (resetWith_count w)⟩,
    ⟨_, exec_pop _, congrArg Ret.popped (popResult_of_zero (resetWith_count w))⟩,
    fun d => ⟨_, exec_push d _, Memory.read_write_same [] 0 d⟩⟩

end Sys2Proof.Machine
end
